-- ==== Sys2Proof/Word.lean ====
section
/-! DEFINITION. Words of the controller: the byte, the 32-bit command and response word, and the two units that can be
presented for execution (spec/30_encoding.md R90: a host command word, or a bus frame). -/

namespace Sys2Proof

/-- A byte is 8 bits, bit 0 the least significant (R8). -/
abbrev Byte := BitVec 8

/-- A host command word and a response data word are 32 bits (R96, R99). -/
abbrev Word := BitVec 32

/-- What the machine fetches its next instruction from: one 32-bit host command word (R96), or the bytes of one bus
frame handed to the burst sequencer, the address byte first (R91 to R94; a frame has no length field, its length is the
number of bytes). -/
inductive Request where
  | command (c : Word)
  | frame (bytes : List Byte)
  deriving DecidableEq, Repr

end Sys2Proof
end

