-- ==== Sys2Proof/Config.lean ====
section
/-! DEFINITION. What the spec leaves open (spec/00_scope.md R6, rows marked OPEN; spec/93_implementation_defined.md U2,
U4, U6, U7, U8, U14), as constants without a body: nothing can be proved about their values. The parameters the spec
gives a value stand in Machine/Params.lean; the OPEN parameter `FAULT_DELIM` is an argument of `describe`
(Machine/Flags.lean), as R6 asks. -/

namespace Sys2Proof

/-- What the bus port answers in one byte exchange: a received byte, or the report on the input `xfer_fail` that the
exchange did not complete (R63, R202). -/
inductive Answer where
  | reply (b : Byte)
  | fail
  deriving DecidableEq, Repr, Inhabited

/-- FREE VALUE (log entry 2): the environment's answer to the n-th byte exchange for which the state holds no answer.
Any exchange may fail, and a received byte is under no law (R202, R40). -/
opaque Config.busAnswer : Nat → Answer

/-- FREE VALUE (log entry 3): the n-th byte drawn for a mirror address that a failed read left unspecified (R126). -/
opaque Config.tornByte : Nat → Byte

/-- OPEN parameter `SPI_CLOCK_HZ` (R6, R151). -/
opaque Config.spiClockHz : Nat

/-- OPEN parameter `SPI_CPOL` (R6, R151). -/
opaque Config.spiCpol : BitVec 1

/-- OPEN parameter `SPI_CPHA` (R6, R151). -/
opaque Config.spiCpha : BitVec 1

/-- OPEN parameter `ONE_SHOT_DELAY`, a duration in units the spec does not name (R6, R173). -/
opaque Config.oneShotDelay : Nat

end Sys2Proof
end

