-- ==== Sys2Proof/Machine/Params.lean ====
section
/-! DEFINITION. The parameters of the controller that the spec gives a value (spec/00_scope.md R6). -/

namespace Sys2Proof.Params

/-- `NREG`: the chip has 16 addressable registers (R20). -/
def nreg : Nat := 16

/-- `WRITE_FLAG`: the write indicator bit of the address byte (R91). -/
def writeFlag : Byte := 0x80#8

/-- `READ_FILL`: the value of a placeholder byte (R93, R125). -/
def readFill : Byte := 0x00#8

/-- `ADDR_CR0` (R30). -/
def addrCr0 : Nat := 0x00

/-- `ADDR_CR1` (R30). -/
def addrCr1 : Nat := 0x01

/-- `ADDR_MASK` (R30). -/
def addrMask : Nat := 0x02

/-- `ADDR_CJTH` (R30). -/
def addrCjth : Nat := 0x0A

/-- `ADDR_CJTL` (R30). -/
def addrCjtl : Nat := 0x0B

/-- `ADDR_LTCBH` (R30). -/
def addrLtcbh : Nat := 0x0C

/-- `ADDR_LTCBM` (R30). -/
def addrLtcbm : Nat := 0x0D

/-- `ADDR_LTCBL` (R30). -/
def addrLtcbl : Nat := 0x0E

/-- `ADDR_SR` (R30). -/
def addrSr : Nat := 0x0F

/-- `DATA_START`: where the span of `RDD` begins (R130). -/
def dataStart : Nat := 0x0A

/-- `DATA_LEN`: how many bytes `RDD` reads (R130). -/
def dataLen : Nat := 6

/-- `CR0_CMODE`: autoconversion (R31). -/
def cr0Cmode : Byte := 0x80#8

/-- `CR0_ONESHOT`: one-shot request (R31). -/
def cr0Oneshot : Byte := 0x40#8

/-- `CR0_OCFAULT1`: the high bit of the open-circuit level (R31). -/
def cr0Ocfault1 : Byte := 0x20#8

/-- `CR0_OCFAULT0`: the low bit of the open-circuit level (R31). -/
def cr0Ocfault0 : Byte := 0x10#8

/-- `CR0_CJDIS`: cold-junction sensing disabled (R31). -/
def cr0Cjdis : Byte := 0x08#8

/-- `CR0_FAULTMODE`: fault status behaviour (R31). -/
def cr0Faultmode : Byte := 0x04#8

/-- `CR0_FAULTCLR`: fault clear (R31). -/
def cr0Faultclr : Byte := 0x02#8

/-- `CR0_HZ50`: 50 Hz line-frequency rejection (R31). -/
def cr0Hz50 : Byte := 0x01#8

/-- `CR0_DEFAULT`: autoconversion, open-circuit level 1, fault clear, 50 Hz rejection (R153). -/
def cr0Default : Byte := cr0Cmode ||| cr0Ocfault0 ||| cr0Faultclr ||| cr0Hz50

/-- `CR1_AVG_DEFAULT`: 16-sample averaging (R154). -/
def cr1AvgDefault : Byte := 0x40#8

/-- `TEMP_FRAC_BITS` (R182). -/
def tempFracBits : Nat := 20

/-- `CJ_FRAC_BITS` (R185). -/
def cjFracBits : Nat := 8

end Sys2Proof.Params
end

