-- ==== Sys2Proof/Syntax.lean ====
section
/-! DEFINITION. The instructions: one constructor per row of spec/opcode_table.json (spec/30_encoding.md R96, R100; the
bus frames R91 to R93). Every field holds the bits of its encoding as they stand (R98). -/

namespace Sys2Proof

/-- An instruction. The first ten are the host commands; the last two are the frame kinds of the serial bus, which
the burst sequencer runs. -/
inductive Instr where
  /-- `INIT`, format I: the type selector, the two presence bits, the caller's CR0 and averaging bytes. -/
  | init (tsel : BitVec 4) (cr0v cr1v : Bool) (cr0 cr1 : Byte)
  /-- `RDR start, count`, format R. -/
  | rdr (start : BitVec 4) (count : BitVec 5)
  /-- `WRR start, count`, format R. -/
  | wrr (start : BitVec 4) (count : BitVec 5)
  /-- `RDD`, format Z. -/
  | rdd
  /-- `ONESHOT`, format Z. -/
  | oneshot
  /-- `TEMP r`, format D. -/
  | temp (r : Bool)
  /-- `CJT r`, format D. -/
  | cjt (r : Bool)
  /-- `FLT r`, format D. -/
  | flt (r : Bool)
  /-- `MLD addr`, format M. -/
  | mld (addr : BitVec 4)
  /-- `MST addr, data`, format M. -/
  | mst (addr : BitVec 4) (data : Byte)
  /-- `BUS_READ`: a read frame from device address `a` with `n` placeholder bytes. -/
  | busRead (a : BitVec 7) (n : BitVec 5)
  /-- `BUS_WRITE`: a write frame to device address `a` carrying the payload. -/
  | busWrite (a : BitVec 7) (payload : List Byte)
  deriving DecidableEq, Repr

end Sys2Proof
end

