-- ==== Sys2Proof/WellFormed.lean ====
section
/-! DEFINITION. Which instruction terms the controller can be given: every host command with any operand (R98: operands
are used as they stand), and the bus frames the controller emits (R91: `A[6:4] = 0`; R92, R93, R121, R125: the burst
stays inside the 16 registers). -/

namespace Sys2Proof

/-- The transaction precondition: the start address is one of the 16 registers (R91, R102) and the burst does not pass
the last of them (R121, R125: `a + n <= 16`). -/
abbrev burstFits (a n : Nat) : Bool := decide (a < Params.nreg) && decide (a + n ≤ Params.nreg)

/-- Well-formed instructions. -/
def Instr.wellFormed : Instr → Bool
  | .init _ _ _ _ _ => true
  | .rdr _ _ => true
  | .wrr _ _ => true
  | .rdd => true
  | .oneshot => true
  | .temp _ => true
  | .cjt _ => true
  | .flt _ => true
  | .mld _ => true
  | .mst _ _ => true
  | .busRead a n => burstFits a.toNat n.toNat
  | .busWrite a payload => burstFits a.toNat payload.length

end Sys2Proof
end

