-- ==== Sys2Proof/Decode.lean ====
section
/-! DEFINITION. Decoding and encoding: host command words (spec/30_encoding.md R96 to R101) and bus frames (R91 to
R94, R102). Decoding is total and rejects by name; the encoder is written from the same tables. -/

namespace Sys2Proof

/-- Why a presented unit is no instruction. -/
inductive DecodeError where
  /-- The opcode of a command word is 0x0 or 0xB to 0xF (R101). -/
  | illegalOpcode
  /-- A reserved bit of the command's format is 1 (R101). -/
  | reservedBit
  /-- A frame has at least the address byte (R91). -/
  | emptyFrame
  /-- A frame carries at most 16 data bytes (R92, R93). -/
  | frameTooLong
  /-- A data byte of a read frame is not the placeholder `READ_FILL` (R93). -/
  | notPlaceholder
  deriving DecidableEq, Repr

/-- Accept `i` when the word agrees with the row's match under its mask (R100), else name the reserved bit. -/
def checkRow (c mask pattern : Word) (i : Instr) : Except DecodeError Instr :=
  if c &&& mask = pattern then .ok i else .error .reservedBit

/-- Field `tsel`, `start` or `addr`: bits 27:24 of a command word (R96). -/
def fieldHigh (c : Word) : BitVec 4 := c.extractLsb' 24 4

/-- Field `count`: bits 23:19 (R96). -/
def fieldCount (c : Word) : BitVec 5 := c.extractLsb' 19 5

/-- Field `r`: bit 27 (R96). -/
def fieldRefresh (c : Word) : Bool := c.getLsbD 27

/-- Decode a host command word: the opcode first, then the reserved bits (R101). -/
def decodeCommand (c : Word) : Except DecodeError Instr :=
  match (c.extractLsb' 28 4).toNat with
  | 0x1 => checkRow c 0xF03F0000#32 0x10000000#32
      (.init (fieldHigh c) (c.getLsbD 23) (c.getLsbD 22) (c.extractLsb' 8 8) (c.extractLsb' 0 8))
  | 0x2 => checkRow c 0xF007FFFF#32 0x20000000#32 (.rdr (fieldHigh c) (fieldCount c))
  | 0x3 => checkRow c 0xF007FFFF#32 0x30000000#32 (.wrr (fieldHigh c) (fieldCount c))
  | 0x4 => checkRow c 0xFFFFFFFF#32 0x40000000#32 .rdd
  | 0x5 => checkRow c 0xFFFFFFFF#32 0x50000000#32 .oneshot
  | 0x6 => checkRow c 0xF7FFFFFF#32 0x60000000#32 (.temp (fieldRefresh c))
  | 0x7 => checkRow c 0xF7FFFFFF#32 0x70000000#32 (.cjt (fieldRefresh c))
  | 0x8 => checkRow c 0xF7FFFFFF#32 0x80000000#32 (.flt (fieldRefresh c))
  | 0x9 => checkRow c 0xF0FFFFFF#32 0x90000000#32 (.mld (fieldHigh c))
  | 0xA => checkRow c 0xF0FFFF00#32 0xA0000000#32 (.mst (fieldHigh c) (c.extractLsb' 0 8))
  | _ => .error .illegalOpcode

/-- Decode a bus frame. Bit 7 of the address byte is the write indicator and bits 6:0 the address (R91); the data
bytes of a write are its payload, those of a read are placeholders (R92, R93). -/
def decodeFrame : List Byte → Except DecodeError Instr
  | [] => .error .emptyFrame
  | b :: data =>
    if 16 < data.length then .error .frameTooLong
    else if b &&& Params.writeFlag = Params.writeFlag then .ok (.busWrite (b.extractLsb' 0 7) data)
    else if data = List.replicate data.length Params.readFill then
      .ok (.busRead (b.extractLsb' 0 7) (BitVec.ofNat 5 data.length))
    else .error .notPlaceholder

/-- Decode what is presented. -/
def decode : Request → Except DecodeError Instr
  | .command c => decodeCommand c
  | .frame bytes => decodeFrame bytes

/-- The address byte of a write followed by the payload (R91, R92). -/
def writeFrame (a : Nat) (payload : List Byte) : List Byte :=
  (Params.writeFlag ||| BitVec.ofNat 8 a) :: payload

/-- The bare address byte followed by `n` placeholder bytes (R91, R93). -/
def readFrame (a n : Nat) : List Byte :=
  BitVec.ofNat 8 a :: List.replicate n Params.readFill

/-- The encoding of an instruction: the command word of R96, or the bytes the controller sends in a frame. -/
def encode : Instr → Request
  | .init tsel cr0v cr1v cr0 cr1 =>
      .command (0x1#4 ++ tsel ++ BitVec.ofBool cr0v ++ BitVec.ofBool cr1v ++ 0#6 ++ cr0 ++ cr1)
  | .rdr start count => .command (0x2#4 ++ start ++ count ++ 0#19)
  | .wrr start count => .command (0x3#4 ++ start ++ count ++ 0#19)
  | .rdd => .command (0x4#4 ++ 0#28)
  | .oneshot => .command (0x5#4 ++ 0#28)
  | .temp r => .command (0x6#4 ++ BitVec.ofBool r ++ 0#27)
  | .cjt r => .command (0x7#4 ++ BitVec.ofBool r ++ 0#27)
  | .flt r => .command (0x8#4 ++ BitVec.ofBool r ++ 0#27)
  | .mld addr => .command (0x9#4 ++ addr ++ 0#24)
  | .mst addr data => .command (0xA#4 ++ addr ++ 0#16 ++ data)
  | .busRead a n => .frame (readFrame a.toNat n.toNat)
  | .busWrite a payload => .frame (writeFrame a.toNat payload)

/-- The unit a table row of `nbits` bits stands for, its bits numbered as spec/opcode_table.json numbers them: the
8-bit rows are the first byte of a frame, which then has no data byte; the others are a whole command word. -/
def requestOfTableWord (nbits w : Nat) : Request :=
  if nbits ≤ 8 then .frame [BitVec.ofNat 8 (w % 2 ^ nbits)] else .command (BitVec.ofNat 32 (w % 2 ^ nbits))

/-- The instruction the decoder reads from a table word. -/
def decodeTableWord (nbits w : Nat) : Option Instr :=
  match decode (requestOfTableWord nbits w) with
  | .ok i => some i
  | .error _ => none

end Sys2Proof
end

