-- ==== Sys2Proof/Machine/State.lean ====
section
/-! DEFINITION. The state of the controller (spec/10_state.md R20 to R29, R43; spec/60_exceptions.md R219), its reset
value (R42, R230), and the reasons a step can stop. -/

namespace Sys2Proof.Machine

/-- The chip-select state `cs` (R24). -/
inductive ChipSelect where
  | inactive
  | active
  deriving DecidableEq, Repr

/-- The phase of the burst sequencer (R25). -/
inductive Phase where
  | idle
  | addr
  | data
  deriving DecidableEq, Repr

/-- The direction of a transaction (R25). -/
inductive Dir where
  | rd
  | wr
  deriving DecidableEq, Repr

/-- The lifecycle (R27). -/
inductive Life where
  | uninit
  | ready
  | failed
  deriving DecidableEq, Repr

/-- One event of the transaction history (R28): a completed write, a completed read, or a transaction that failed
after `k` bytes. -/
inductive BusEvent where
  | w (a : Nat) (bytes : List Byte)
  | r (a n : Nat) (bytes : List Byte)
  | f (dir : Dir) (a k : Nat)
  deriving DecidableEq, Repr

/-- What happens at the bus port, in order (log entry 5): chip-select asserted or released, a byte sent in the
write-only form, a byte sent and a byte received in the same byte time, an exchange that did not complete (R63, R10,
R202), and the one-shot wait (R173). -/
inductive WireEvent where
  | select
  | deselect
  | sent (t : Byte)
  | duplex (t r : Byte)
  | broken
  | wait (duration : Nat)
  deriving DecidableEq, Repr

/-- The bus port's configuration (R29). -/
structure BusCfg where
  configured : Bool
  clockHz : Nat
  cpol : BitVec 1
  cpha : BitVec 1
  deriving DecidableEq, Repr

/-- The response of a command: 4-bit status and 32-bit data word (R43, R99, R200). -/
structure Response where
  status : BitVec 4
  rsp : Word
  deriving DecidableEq, Repr

/-- An exception with the information it records (R200). -/
inductive Cause where
  | invalidThermocoupleType (tsel : BitVec 4)
  | busTransportFailure (dir : Dir) (a k : Nat)
  | rangeError (start : BitVec 7) (count : BitVec 5)
  | illegalCommand (c : Word)
  | notConstructed
  deriving DecidableEq, Repr

/-- What comes to the controller from outside between commands: its reset input (R42, R230), or a unit presented for
execution. -/
inductive PortInput where
  | reset
  | request (q : Request)
  deriving DecidableEq, Repr

/-- The register mirror as memory (R20, R60 (b)): (address, byte) pairs, addresses strictly rising. An address that is
not listed holds no value (R42, R231). -/
abbrev Memory := List Host.Cell

/-- The machine's state. -/
structure State where
  /-- The register mirror (R20). -/
  mirror : Memory
  /-- Chip-select (R24). -/
  cs : ChipSelect
  /-- The sequencer's phase (R25). -/
  phase : Phase
  /-- The burst pointer: the device address of the next data byte (R25, R26). -/
  ptr : BitVec 5
  /-- Data bytes still to move (R25). -/
  left : BitVec 5
  /-- The direction of the transaction (R25). -/
  dir : Dir
  /-- The 17-byte exchange buffer (R25). -/
  xbuf : List Byte
  /-- The one-shot settling counter (R40 (b), R219). -/
  delay : Nat
  /-- The lifecycle (R27). -/
  life : Life
  /-- The status code of the last command (R27). -/
  err : BitVec 4
  /-- A command has been accepted and not yet answered (R27). -/
  busy : Bool
  /-- The bus port's configuration (R29). -/
  buscfg : BusCfg
  /-- The transaction history (R28). -/
  hist : List BusEvent
  /-- The response port: the last response (R43; log entry 6). -/
  resp : Option Response
  /-- MODEL'S OWN: what the outside still presents, the next one first (log entry 7). -/
  port : List PortInput
  /-- MODEL'S OWN: the environment's answers to the coming byte exchanges (log entry 2). -/
  answers : List Answer
  /-- MODEL'S OWN: how many free values have been drawn (log entries 2, 3). -/
  draws : Nat
  /-- MODEL'S OWN: what has happened at the bus port since reset (log entry 5). -/
  wire : List WireEvent
  deriving DecidableEq, Repr

/-- Why the machine stops. -/
inductive Fault where
  /-- Raised by `WRR`, `ONESHOT`, `TEMP`, `CJT`, `FLT` and `MLD` when they read a mirror byte that nothing has written
  since reset (R231: "a fault of the model, not a zero and not an arbitrary byte"). Safe: the machine stops, and no
  state that meets `Inv` (Safety.lean) gets here. -/
  | mirrorByteWithoutValue
  deriving DecidableEq, Repr

/-- Why the machine gives no meaning to what is presented. -/
inductive Refusal where
  /-- No meaning yet, by mnemonic. Safe. No arm of `exec` answers so. -/
  | notModelled (mnemonic : String)
  /-- Raised by `step` for bytes that form no bus frame (R92 to R94: no address byte, more than 16 data bytes, or a
  read whose data bytes are not placeholders). The controller never forms such a frame. Safe. -/
  | malformedFrame (reason : DecodeError)
  deriving DecidableEq, Repr

/-- The state right after reset (R42, R230). Where R42 says "unspecified", the values are the log's (entries 8, 9). -/
def State.reset : State where
  mirror := []
  cs := .inactive
  phase := .idle
  ptr := 0
  left := 0
  dir := .rd
  xbuf := List.replicate 17 0#8
  delay := 0
  life := .uninit
  err := 0
  busy := false
  buscfg := { configured := false, clockHz := 0, cpol := 0, cpha := 0 }
  hist := []
  resp := none
  port := []
  answers := []
  draws := 0
  wire := []

end Sys2Proof.Machine
end

