-- ==== Sys2Proof/Machine/Operands.lean ====
section
/-! DEFINITION. Operand forms: the register map and its fields (spec/10_state.md R30 to R37), the type selector and
the CR1 merge (spec/41_init_config.md R153 to R155), the one-shot update (spec/42_one_shot.md R171), multi-byte
field assembly (spec/30_encoding.md R95) and the fixed-point values (spec/43_decoder.md R181 to R187, R192). -/

namespace Sys2Proof.Machine

/-! ### The register map -/

/-- The name of each address (R30). Address 16 and above name nothing. -/
def registerName : Nat → Option String
  | 0x00 => some "CR0"
  | 0x01 => some "CR1"
  | 0x02 => some "MASK"
  | 0x03 => some "CJHF"
  | 0x04 => some "CJLF"
  | 0x05 => some "LTHFTH"
  | 0x06 => some "LTHFTL"
  | 0x07 => some "LTLFTH"
  | 0x08 => some "LTLFTL"
  | 0x09 => some "CJTO"
  | 0x0A => some "CJTH"
  | 0x0B => some "CJTL"
  | 0x0C => some "LTCBH"
  | 0x0D => some "LTCBM"
  | 0x0E => some "LTCBL"
  | 0x0F => some "SR"
  | _ => none

/-! ### CR0 (R31) -/

/-- `CMODE`, bit 7. -/
def cr0CmodeBit (v : Byte) : Bool := v.getLsbD 7

/-- `ONESHOT`, bit 6. -/
def cr0OneshotBit (v : Byte) : Bool := v.getLsbD 6

/-- `OCFAULT`, bits 5:4: the open-circuit detection level. -/
def cr0Ocfault (v : Byte) : BitVec 2 := v.extractLsb' 4 2

/-- `CJDIS`, bit 3. -/
def cr0CjdisBit (v : Byte) : Bool := v.getLsbD 3

/-- `FAULTMODE`, bit 2. -/
def cr0FaultmodeBit (v : Byte) : Bool := v.getLsbD 2

/-- `FAULTCLR`, bit 1. -/
def cr0FaultclrBit (v : Byte) : Bool := v.getLsbD 1

/-- `HZ50`, bit 0. -/
def cr0Hz50Bit (v : Byte) : Bool := v.getLsbD 0

/-- The CR0 byte of `INIT`: the caller's byte verbatim, or the default (R153). -/
def chosenCr0 (cr0v : Bool) (cr0 : Byte) : Byte := if cr0v then cr0 else Params.cr0Default

/-- The CR0 update of `ONESHOT`: autoconversion cleared, one-shot set, the other bits kept (R171). -/
def oneShotCr0 (old : Byte) : Byte := (old &&& ~~~Params.cr0Cmode) ||| Params.cr0Oneshot

/-! ### CR1 (R32 to R34) -/

/-- The ten recognized thermocouple types (R33). -/
inductive Thermocouple where
  | B | E | J | K | N | R | S | T | VG8 | VG32
  deriving DecidableEq, Repr

/-- The type a selector names; 10 to 15 name none (R33, R97). -/
def Thermocouple.ofSelector (tsel : BitVec 4) : Option Thermocouple :=
  match tsel.toNat with
  | 0 => some .B
  | 1 => some .E
  | 2 => some .J
  | 3 => some .K
  | 4 => some .N
  | 5 => some .R
  | 6 => some .S
  | 7 => some .T
  | 8 => some .VG8
  | 9 => some .VG32
  | _ => none

/-- `TYPE_CODE` (R33). -/
def Thermocouple.code : Thermocouple → BitVec 4
  | .B => 0x0
  | .E => 0x1
  | .J => 0x2
  | .K => 0x3
  | .N => 0x4
  | .R => 0x5
  | .S => 0x6
  | .T => 0x7
  | .VG8 => 0x8
  | .VG32 => 0xC

/-- How the type is written in the spec's syntax (R103). -/
def Thermocouple.name : Thermocouple → String
  | .B => "B"
  | .E => "E"
  | .J => "J"
  | .K => "K"
  | .N => "N"
  | .R => "R"
  | .S => "S"
  | .T => "T"
  | .VG8 => "VG8"
  | .VG32 => "VG32"

/-- `AVG`, the high nibble of CR1 (R32). -/
def cr1Avg (v : Byte) : BitVec 4 := v.extractLsb' 4 4

/-- `TYPE`, the low nibble of CR1 (R32). -/
def cr1Type (v : Byte) : BitVec 4 := v.extractLsb' 0 4

/-- How many samples an averaging nibble selects (R34; general knowledge, used by no command). R34 gives no code in which
bit 3 of the nibble (bit 7 of CR1, reserved in the device) is 1; DESIGN CHOICE (log entry 22): that bit is ignored, so that
nibble 0x8 reads as 1 sample. -/
def averagingSamples (avg : BitVec 4) : Nat :=
  match (avg &&& 0x7#4).toNat with
  | 0 => 1
  | 1 => 2
  | 2 => 4
  | 3 => 8
  | _ => 16

/-- The averaging byte of `INIT`: the caller's, or the default (R154). -/
def chosenAvg (cr1v : Bool) (cr1 : Byte) : Byte := if cr1v then cr1 else Params.cr1AvgDefault

/-- The CR1 merge: `(avg & 0xF0) | TYPE_CODE` (R155). -/
def mergeCr1 (avg : Byte) (code : BitVec 4) : Byte := (avg &&& 0xF0#8) ||| code.setWidth 8

/-! ### Field assembly and fixed point -/

/-- `LT32`: the four bytes at 0x0C to 0x0F, the first the most significant (R95, R181). -/
def assembleLt32 (b0C b0D b0E b0F : Byte) : Word := b0C ++ b0D ++ b0E ++ b0F

/-- `CJ16`: the bytes at 0x0A and 0x0B (R95, R184). -/
def assembleCj16 (b0A b0B : Byte) : BitVec 16 := b0A ++ b0B

/-- The result of `CJT`: `sext_32(CJ16)` (R183). -/
def cjtResult (b0A b0B : Byte) : Word := (assembleCj16 b0A b0B).signExtend 32

/-- The result of `FLT` and `MLD`: a byte extended with zeros (R99, R188, R135). -/
def zextByte (b : Byte) : Word := b.setWidth 32

/-- A fixed-point value `m * 2^-k` (R12). -/
structure Fixed where
  m : Int
  k : Nat
  deriving DecidableEq, Repr

/-- The rational it denotes (R12). -/
def Fixed.value (x : Fixed) : ℚ := (x.m : ℚ) / 2 ^ x.k

/-- The thermocouple temperature of a `TEMP` response: Q11.20 (R182). -/
def tempFixed (rsp : Word) : Fixed := { m := rsp.toInt, k := Params.tempFracBits }

/-- The cold-junction temperature of a `CJT` response: 8 fraction bits (R185). -/
def cjFixed (rsp : Word) : Fixed := { m := rsp.toInt, k := Params.cjFracBits }

/-- `LT19`: the device's 19-bit field (R192, informative). -/
def lt19 (w : Word) : BitVec 19 := w.extractLsb' 13 19

/-- `lt_value` (R192, informative). -/
def lt19Fixed (w : Word) : Fixed := { m := (lt19 w).toInt, k := 7 }

/-- `CJ14`: the device's 14-bit field (R192, informative). -/
def cj14 (c : BitVec 16) : BitVec 14 := c.extractLsb' 2 14

/-- `cj_value` (R192, informative). -/
def cj14Fixed (c : BitVec 16) : Fixed := { m := (cj14 c).toInt, k := 6 }

/-- A value fits a binary floating-point format of `p` significand bits without rounding: it is an integer of at most
`p` bits times a power of two (R187; the exponents of R187's two formats are never the limit here). -/
def Fixed.exactWith (p : Nat) (x : Fixed) : Prop := ∃ n : Int, ∃ e : Nat, x.m = n * 2 ^ e ∧ n.natAbs < 2 ^ p

end Sys2Proof.Machine
end

