-- ==== Sys2Proof/Machine/Flags.lean ====
section
/-! DEFINITION. Status codes and the information word of every exception (spec/60_exceptions.md R200), the eight
sensor-fault flags (spec/10_state.md R36; spec/43_decoder.md R189) and their description (R190). The controller has
no arithmetic condition codes (R39). -/

namespace Sys2Proof.Machine

/-- The status code (R200). -/
def Cause.code : Cause → BitVec 4
  | .invalidThermocoupleType _ => 1
  | .busTransportFailure _ _ _ => 2
  | .rangeError _ _ => 3
  | .illegalCommand _ => 4
  | .notConstructed => 5

/-- The response data word of an exception (R200). For a transport failure bit 16 tells a write, bits 11:8 hold the
start address and bits 4:0 the index of the failing byte; for a range error bits 11:8 hold the start (bits 14:8 for a
bus frame, log entry 11) and bits 4:0 the count. -/
def Cause.info : Cause → Word
  | .invalidThermocoupleType tsel => tsel.setWidth 32
  | .busTransportFailure dir a k =>
      0#15 ++ BitVec.ofBool (decide (dir = .wr)) ++ 0#4 ++ BitVec.ofNat 4 a ++ 0#3 ++ BitVec.ofNat 5 k
  | .rangeError start count => 0#17 ++ start ++ 0#3 ++ count
  | .illegalCommand c => c
  | .notConstructed => 0

/-- The causes that end a construction: codes 1 and 2 (R210 (4)). -/
def Cause.endsConstruction : Cause → Bool
  | .invalidThermocoupleType _ => true
  | .busTransportFailure _ _ _ => true
  | .rangeError _ _ => false
  | .illegalCommand _ => false
  | .notConstructed => false

/-- The history event of an exception that arose inside a transaction (R210 (3)). -/
def Cause.failureEvents : Cause → List BusEvent
  | .invalidThermocoupleType _ => []
  | .busTransportFailure dir a k => [.f dir a k]
  | .rangeError _ _ => []
  | .illegalCommand _ => []
  | .notConstructed => []

/-- The eight conditions the status byte reports (R36). -/
inductive SensorFault where
  | openCircuit
  | overUnderVoltage
  | tcLow
  | tcHigh
  | cjLow
  | cjHigh
  | tcRange
  | cjRange
  deriving DecidableEq, Repr

/-- The status bit of a condition (R36). -/
def SensorFault.bit : SensorFault → Nat
  | .openCircuit => 0
  | .overUnderVoltage => 1
  | .tcLow => 2
  | .tcHigh => 3
  | .cjLow => 4
  | .cjHigh => 5
  | .tcRange => 6
  | .cjRange => 7

/-- `FAULT_NAME` (R36, R190). -/
def SensorFault.name : SensorFault → String
  | .openCircuit => "open"
  | .overUnderVoltage => "ovuv"
  | .tcLow => "tclow"
  | .tcHigh => "tchigh"
  | .cjLow => "cjlow"
  | .cjHigh => "cjhigh"
  | .tcRange => "tcrange"
  | .cjRange => "cjrange"

/-- The fixed table, ascending bit value (R190). -/
def SensorFault.all : List SensorFault :=
  [.openCircuit, .overUnderVoltage, .tcLow, .tcHigh, .cjLow, .cjHigh, .tcRange, .cjRange]

/-- Flag line `fault[b]` of a status byte (R189). -/
def faultFlag (sr : Byte) (f : SensorFault) : Bool := sr.getLsbD f.bit

/-- All active conditions, in the order of the table (R189, R190). -/
def activeFaults (sr : Byte) : List SensorFault := SensorFault.all.filter (faultFlag sr)

/-- The names with the delimiter between them, none before the first or after the last (R190). -/
def joinNames (delim : String) : List String → String
  | [] => ""
  | [x] => x
  | x :: y :: rest => x ++ delim ++ joinNames delim (y :: rest)

/-- `describe(sr)` under the OPEN parameter `FAULT_DELIM` (R190). -/
def describe (delim : String) (sr : Byte) : String := joinNames delim ((activeFaults sr).map SensorFault.name)

/-- What R190 asks of `FAULT_DELIM`: non-empty, and no letter in it. R190 does not say which characters are letters; DESIGN
CHOICE (log entry 21): the ASCII letters `A` to `Z` and `a` to `z`, which are all that the fault names use, so a delimiter
with a letter outside ASCII in it passes. -/
def DelimiterOk (delim : String) : Prop := delim ≠ "" ∧ ∀ c ∈ delim.toList, c.isAlpha = false

/-- The result of `FLT` as the document gives it: the raw byte and the description (R188). -/
def faultsResult (delim : String) (sr : Byte) : Nat × String := (sr.toNat, describe delim sr)

end Sys2Proof.Machine
end

