-- ==== Sys2Proof/Machine/Ops.lean ====
section
/-! DEFINITION. The operations the meanings share: the register mirror as memory (spec/20_memory.md R60 (b)), the byte
exchanges and the burst sequencer (spec/40_bus_transactions.md R120, R121, R125, R128), the response, and taking an
exception (spec/60_exceptions.md R210). -/

namespace Sys2Proof.Machine

/-! ### The mirror -/

/-- One byte of the mirror; none where nothing has been written since reset (R9, R231). -/
def Memory.read (m : Memory) (a : Nat) : Option Byte :=
  match m with
  | [] => none
  | (k, b) :: rest => if a = k then some b else Memory.read rest a

/-- `mirror[a] <- b`, keeping the addresses rising (R9). -/
def Memory.write (m : Memory) (a : Nat) (b : Byte) : Memory :=
  match m with
  | [] => [(a, b)]
  | (k, c) :: rest =>
    if a < k then (a, b) :: (k, c) :: rest
    else if a = k then (a, b) :: rest
    else (k, c) :: Memory.write rest a b

/-- `mirror[start], mirror[start+1], … <- bytes` (R9, R124). -/
def Memory.writeRange (m : Memory) (start : Nat) : List Byte → Memory
  | [] => m
  | b :: rest => Memory.writeRange (m.write start b) (start + 1) rest

/-- `mirror[start : start+n]`, if every byte of it has a value (R9). -/
def Memory.readRange (m : Memory) (start : Nat) : Nat → Option (List Byte)
  | 0 => some []
  | n + 1 =>
    match m.read start, Memory.readRange m (start + 1) n with
    | some b, some rest => some (b :: rest)
    | _, _ => none

/-- The canonical form: addresses strictly rising, all of them among the 16 registers (R20, R60 (b)). -/
abbrev Memory.wf (m : Memory) : Prop :=
  m.Pairwise (fun c d => c.1 < d.1) ∧ ∀ c ∈ m, c.1 < Params.nreg

/-- `LT32` of the mirror (R95, R181). -/
def Memory.lt32 (m : Memory) : Option Word :=
  match m.read Params.addrLtcbh, m.read Params.addrLtcbm, m.read Params.addrLtcbl, m.read Params.addrSr with
  | some b0C, some b0D, some b0E, some b0F => some (assembleLt32 b0C b0D b0E b0F)
  | _, _, _, _ => none

/-- The `CJT` result of the mirror (R183, R184). -/
def Memory.cjt (m : Memory) : Option Word :=
  match m.read Params.addrCjth, m.read Params.addrCjtl with
  | some b0A, some b0B => some (cjtResult b0A b0B)
  | _, _ => none

/-- The `FLT` result of the mirror (R188). -/
def Memory.flt (m : Memory) : Option Word := (m.read Params.addrSr).map zextByte

/-- A staging step or `MST`: one mirror byte changes, nothing else (R21 (ii), (iii)). -/
def stage (a : Nat) (b : Byte) (s : State) : State := { s with mirror := s.mirror.write a b }

/-! ### Accepting, answering, taking an exception -/

/-- A command is accepted: `busy` is 1 until its response (R27, R70). -/
def accept (s : State) : State := { s with busy := true }

/-- A command completes: status 0, the data word on the response port, not busy (R99, R200, R27). -/
def respond (rsp : Word) (s : State) : State :=
  { s with err := 0, resp := some { status := 0, rsp := rsp }, busy := false }

/-- A bus frame run on its own completes: the port opens again, and no response is given (log entry 4). -/
def release (s : State) : State := { s with busy := false }

/-- Taking an exception: the error exit of R210. Chip-select is forced inactive and the sequencer idle (1, 2); a failed
transaction leaves its `F` event (3); a construction that meets code 1 or 2 has failed (4); `err` and the response
carry the code (5, 6). Nothing is saved and there is no handler (R210, R213). -/
def raise (constructing : Bool) (c : Cause) (s : State) : State :=
  { s with
    cs := .inactive
    phase := .idle
    hist := s.hist ++ c.failureEvents
    wire := s.wire ++ (if s.cs = .active then [.deselect] else [])
    life := if constructing && c.endsConstruction then .failed else s.life
    err := c.code
    resp := some { status := c.code, rsp := c.info }
    busy := false }

/-- The reset input (R230): the reset values of R42, nothing sent on the bus. What the outside holds (the inputs
still to come, the answers it will give, the count of drawn values) is no part of the controller and stays. -/
def assertReset (s : State) : State :=
  { State.reset with port := s.port, answers := s.answers, draws := s.draws }

/-! ### Byte exchanges -/

/-- The environment's next answer: the first one the state holds, else a free one (R202, R40; log entry 2). -/
def nextAnswer (s : State) : Answer × State :=
  match s.answers with
  | a :: rest => (a, { s with answers := rest })
  | [] => (Config.busAnswer s.draws, { s with draws := s.draws + 1 })

/-- One exchange while chip-select is active: `XferW(t)` in a write, where what the device drives is ignored, and
`Xfer(t)` in a read (R10, R63). No byte comes back when the transport fails (R202). -/
def exchange (t : Byte) (s : State) : Option Byte × State :=
  match nextAnswer s with
  | (.reply r, s1) =>
      (some r, { s1 with wire := s1.wire ++ [match s1.dir with | .wr => .sent t | .rd => .duplex t r] })
  | (.fail, s1) => (none, { s1 with wire := s1.wire ++ [.broken] })

/-! ### The burst sequencer, one row of the table of R128 each -/

/-- `IDLE` to `ADDR`: the request bytes are in the exchange buffer, chip-select becomes active (R125, R128). -/
def startTransaction (dir : Dir) (a n : Nat) (request : List Byte) (s : State) : State :=
  { s with
    xbuf := request ++ s.xbuf.drop request.length
    cs := .active
    phase := .addr
    ptr := BitVec.ofNat 5 a
    left := BitVec.ofNat 5 n
    dir := dir
    wire := s.wire ++ [.select] }

/-- In a read the sent byte at index `j` of the buffer is replaced by the received one (R63, R125). -/
def keepReceived (j : Nat) (r : Byte) (s : State) : State :=
  { s with xbuf := match s.dir with | .rd => s.xbuf.set j r | .wr => s.xbuf }

/-- `ADDR` to `DATA`: the address byte has been exchanged. What is received then stands at index 0 of the buffer,
which the result leaves out (R125, R128). -/
def addressExchanged (r : Byte) (s : State) : State := { keepReceived 0 r s with phase := .data }

/-- `DATA` to `DATA`: the data byte with frame index `j` has been exchanged (R128). -/
def dataExchanged (j : Nat) (r : Byte) (s : State) : State :=
  { keepReceived j r s with ptr := s.ptr + 1, left := s.left - 1 }

/-- How far a frame got. -/
inductive Shift where
  /-- Every byte was exchanged. -/
  | complete (s : State)
  /-- The exchange of the byte with index `k` failed. -/
  | broke (k : Nat) (s : State)

/-- The data bytes of a frame, the first of them with frame index `j`. -/
def shiftData (j : Nat) (s : State) : List Byte → Shift
  | [] => .complete s
  | t :: rest =>
    match exchange t s with
    | (some r, s1) => shiftData (j + 1) (dataExchanged j r s1) rest
    | (none, s1) => .broke j s1

/-- A frame: the address byte, then the data bytes in order (R92, R93). -/
def shiftFrame (s : State) : List Byte → Shift
  | [] => .complete s
  | t :: rest =>
    match exchange t s with
    | (some r, s1) => shiftData 1 (addressExchanged r s1) rest
    | (none, s1) => .broke 0 s1

/-- `DATA` to `IDLE`: chip-select is released and the event joins the history (R128, R137). -/
def endTransaction (e : BusEvent) (s : State) : State :=
  { s with cs := .inactive, phase := .idle, hist := s.hist ++ [e], wire := s.wire ++ [.deselect] }

/-- The outcome of a whole transaction. -/
inductive Tx where
  /-- It completed, with the captured bytes. -/
  | done (captured : List Byte) (s : State)
  /-- The transport failed: the exception to raise. -/
  | failed (c : Cause) (s : State)

/-- `BusWrite(a, payload)` (R121), for `a + n <= 16`. -/
def busWrite (a : Nat) (payload : List Byte) (s : State) : Tx :=
  match shiftFrame (startTransaction .wr a payload.length (writeFrame a payload) s) (writeFrame a payload) with
  | .complete s1 => .done [] (endTransaction (.w a payload) s1)
  | .broke k s1 => .failed (.busTransportFailure .wr a k) s1

/-- The bytes a read captured: those after the address byte (R93, R125). -/
def captured (n : Nat) (s : State) : List Byte := (s.xbuf.drop 1).take n

/-- `BusRead(a, n)` (R125), for `a + n <= 16`. -/
def busRead (a n : Nat) (s : State) : Tx :=
  match shiftFrame (startTransaction .rd a n (readFrame a n) s) (readFrame a n) with
  | .complete s1 => .done (captured n s1) (endTransaction (.r a n (captured n s1)) s1)
  | .broke k s1 => .failed (.busTransportFailure .rd a k) s1

/-- After a failed read every mirror byte of its range is unspecified: a free value each (R126; log entry 3). -/
def tear (a n : Nat) (s : State) : State :=
  { s with
    mirror := s.mirror.writeRange a ((List.range n).map fun i => Config.tornByte (s.draws + i))
    draws := s.draws + n }

/-- A read into the mirror, the only way device bytes enter it (R61, R124, R126). -/
def pull (a n : Nat) (s : State) : Tx :=
  match busRead a n s with
  | .done bytes s1 => .done bytes { s1 with mirror := s1.mirror.writeRange a bytes }
  | .failed c s1 => .failed c (tear a n s1)

/-- Go on after a completed transaction; a failed one ends the command (R11). -/
def Tx.orRaise (t : Tx) (constructing : Bool) (k : State → State) : State :=
  match t with
  | .done _ s => k s
  | .failed c s => raise constructing c s

/-- As `Tx.orRaise`, where what follows may stop. -/
def Tx.orRaiseThen (t : Tx) (k : State → Host.Outcome State Fault Refusal) : Host.Outcome State Fault Refusal :=
  match t with
  | .done _ s => k s
  | .failed c s => .next (raise false c s)

/-! ### What commands have in common -/

/-- Every command but `INIT` needs `life = READY` (R205). -/
def whenReady (s : State) (k : State → Host.Outcome State Fault Refusal) : Host.Outcome State Fault Refusal :=
  if s.life = .ready then k s else .next (raise false .notConstructed s)

/-- `WRR` and `RDR` check `start + count <= 16` before any bus activity (R68, R203). -/
def whenInRange (start : BitVec 4) (count : BitVec 5) (s : State)
    (k : State → Host.Outcome State Fault Refusal) : Host.Outcome State Fault Refusal :=
  if start.toNat + count.toNat ≤ Params.nreg then k s else .next (raise false (.rangeError (start.setWidth 7) count) s)

/-- Use a value of the mirror. Reading a byte without a value "is a fault of the model, not a zero and not an arbitrary
byte" (R231; likewise R42 and R123): the spec states this stop. -/
def withValue {α : Type} (v : Option α) (k : α → Host.Outcome State Fault Refusal) : Host.Outcome State Fault Refusal :=
  match v with
  | some x => k x
  | none => .fault .mirrorByteWithoutValue

/-- A decoder command: refresh if asked, then decode the mirror (R193, R191). -/
def decodeWith (decoder : Memory → Option Word) (r : Bool) (s : State) : Host.Outcome State Fault Refusal :=
  whenReady (accept s) fun s1 =>
    if r then
      (pull Params.dataStart Params.dataLen s1).orRaiseThen fun s2 =>
        withValue (decoder s2.mirror) fun w => .next (respond w s2)
    else withValue (decoder s1.mirror) fun w => .next (respond w s1)

end Sys2Proof.Machine
end

