-- ==== Sys2Proof/Machine/Bus.lean ====
section
/-! DEFINITION. The two frame kinds of the serial bus as instructions of the burst sequencer: `BUS_READ` and
`BUS_WRITE` (spec/40_bus_transactions.md R121, R125; spec/30_encoding.md R91 to R94). The host commands run the same
transactions. A frame run on its own has no response when it completes (log entry 4); one outside the 16 registers is
turned away as `RangeError`, with no bus activity (R68, R102; log entry 11). -/

namespace Sys2Proof.Machine

/-- `BUS_READ`: `BusRead(a, n)`; the captured bytes stand in the exchange buffer and in the history (R125). -/
def execBusRead (a : BitVec 7) (n : BitVec 5) (s : State) : Host.Outcome State Fault Refusal :=
  .next <|
    if burstFits a.toNat n.toNat then (busRead a.toNat n.toNat (accept s)).orRaise false release
    else raise false (.rangeError a n) (accept s)

/-- `BUS_WRITE`: `BusWrite(a, payload)` (R121). -/
def execBusWrite (a : BitVec 7) (payload : List Byte) (s : State) : Host.Outcome State Fault Refusal :=
  .next <|
    if burstFits a.toNat payload.length then (busWrite a.toNat payload (accept s)).orRaise false release
    else raise false (.rangeError a (BitVec.ofNat 5 payload.length)) (accept s)

end Sys2Proof.Machine
end

