-- ==== Sys2Proof/Machine/Decoder.lean ====
section
/-! DEFINITION. The decoder commands `TEMP`, `CJT`, `FLT` (spec/43_decoder.md). -/

namespace Sys2Proof.Machine

/-- `TEMP r` (R180). -/
def execTemp (r : Bool) (s : State) : Host.Outcome State Fault Refusal := decodeWith Memory.lt32 r s

/-- `CJT r` (R183). -/
def execCjt (r : Bool) (s : State) : Host.Outcome State Fault Refusal := decodeWith Memory.cjt r s

/-- `FLT r` (R188). -/
def execFlt (r : Bool) (s : State) : Host.Outcome State Fault Refusal := decodeWith Memory.flt r s

end Sys2Proof.Machine
end

