-- ==== Sys2Proof/Machine/Initialize.lean ====
section
/-! DEFINITION. `INIT`, the construction sequence in its eight steps (spec/41_init_config.md R150 to R161). -/

namespace Sys2Proof.Machine

/-- Step 1: chip-select inactive, whatever it was (R151). -/
def initRelease (s : State) : State := { s with cs := .inactive }

/-- Step 2: the bus port's clock and mode (R151). -/
def initConfigure (s : State) : State :=
  { s with
    buscfg :=
      { configured := true
        clockHz := Config.spiClockHz
        cpol := Config.spiCpol
        cpha := Config.spiCpha } }

/-- The end of step 8: the construction is complete (R158, R160). -/
def initComplete (s : State) : State := respond 0 { s with life := .ready }

/-- Steps 6 to 8, after CR0 and CR1 are staged: the mask is staged, the three bytes `mirror[0 : 3]` are pushed in one
write and read back unverified (R156, R157, R158). -/
def initPush (c0 c1 : Byte) (s : State) : State :=
  (busWrite Params.addrCr0 [c0, c1, 0x00#8] (stage Params.addrMask 0x00#8 s)).orRaise true fun s1 =>
    (pull Params.addrCr0 3 s1).orRaise true initComplete

/-- Step 5: the type lookup and the merge (R154, R155, R201). -/
def initType (tsel : BitVec 4) (avg c0 : Byte) (s : State) : State :=
  match Thermocouple.ofSelector tsel with
  | none => raise true (.invalidThermocoupleType tsel) s
  | some t => initPush c0 (mergeCr1 avg t.code) (stage Params.addrCr1 (mergeCr1 avg t.code) s)

/-- `INIT tsel [, cr0] [, avg]` (R150): steps 1 and 2, the full read of step 3 (R152), the staging of CR0 in step 4
(R153), then `initType`. It is accepted in every lifecycle state. -/
def execInit (tsel : BitVec 4) (cr0v cr1v : Bool) (cr0 cr1 : Byte) (s : State) : Host.Outcome State Fault Refusal :=
  .next <|
    (pull 0 Params.nreg (initConfigure (initRelease (accept s)))).orRaise true fun s1 =>
      initType tsel (chosenAvg cr1v cr1) (chosenCr0 cr0v cr0) (stage Params.addrCr0 (chosenCr0 cr0v cr0) s1)

end Sys2Proof.Machine
end

