-- ==== Sys2Proof/Machine/OneShot.lean ====
section
/-! DEFINITION. `ONESHOT`, the single conversion with its fixed settling delay (spec/42_one_shot.md R170 to R175). -/

namespace Sys2Proof.Machine

/-- The settling counter is loaded when the push ends (R173, R219). -/
def startDelay (s : State) : State := { s with delay := Config.oneShotDelay }

/-- The counter has run to zero: nothing was exchanged meanwhile, chip-select stayed inactive, and the wait of
`ONE_SHOT_DELAY` stands between the two transactions (R173, R219). -/
def expireDelay (s : State) : State := { s with delay := 0, wire := s.wire ++ [.wait s.delay] }

/-- `ONESHOT` (R170): the CR0 update (R171), the push of that byte (R172), the wait (R173), the closing read (R174). -/
def execOneshot (s : State) : Host.Outcome State Fault Refusal :=
  whenReady (accept s) fun s1 =>
    withValue (s1.mirror.read Params.addrCr0) fun old =>
      .next <|
        (busWrite Params.addrCr0 [oneShotCr0 old] (stage Params.addrCr0 (oneShotCr0 old) s1)).orRaise false fun s2 =>
          (pull Params.dataStart Params.dataLen (expireDelay (startDelay s2))).orRaise false (respond 0)

end Sys2Proof.Machine
end

