-- ==== Sys2Proof/Machine/Transfer.lean ====
section
/-! DEFINITION. The mirror's commands: `WRR`, `RDR`, `RDD`, `MLD`, `MST` (spec/40_bus_transactions.md section 2). -/

namespace Sys2Proof.Machine

/-- `RDR start, count` (R124). -/
def execRdr (start : BitVec 4) (count : BitVec 5) (s : State) : Host.Outcome State Fault Refusal :=
  whenReady (accept s) fun s1 =>
    whenInRange start count s1 fun s2 =>
      .next ((pull start.toNat count.toNat s2).orRaise false (respond 0))

/-- `WRR start, count` (R123): the payload is what the mirror holds. -/
def execWrr (start : BitVec 4) (count : BitVec 5) (s : State) : Host.Outcome State Fault Refusal :=
  whenReady (accept s) fun s1 =>
    whenInRange start count s1 fun s2 =>
      withValue (s2.mirror.readRange start.toNat count.toNat) fun payload =>
        .next ((busWrite start.toNat payload s2).orRaise false (respond 0))

/-- `RDD` (R130). -/
def execRdd (s : State) : Host.Outcome State Fault Refusal :=
  whenReady (accept s) fun s1 =>
    .next ((pull Params.dataStart Params.dataLen s1).orRaise false (respond 0))

/-- `MLD addr` (R135). -/
def execMld (addr : BitVec 4) (s : State) : Host.Outcome State Fault Refusal :=
  whenReady (accept s) fun s1 =>
    withValue (s1.mirror.read addr.toNat) fun b => .next (respond (zextByte b) s1)

/-- `MST addr, data` (R136). -/
def execMst (addr : BitVec 4) (data : Byte) (s : State) : Host.Outcome State Fault Refusal :=
  whenReady (accept s) fun s1 => .next (respond 0 (stage addr.toNat data s1))

end Sys2Proof.Machine
end

