-- ==== Sys2Proof/Machine/Dispatch.lean ====
section
/-! DEFINITION. The dispatch: one arm per instruction of spec/opcode_table.json. -/

namespace Sys2Proof.Machine

def exec (i : Instr) (s : State) : Host.Outcome State Fault Refusal :=
  match i with
  | .init tsel cr0v cr1v cr0 cr1 => Sys2Proof.Machine.execInit tsel cr0v cr1v cr0 cr1 s
  | .rdr start count => Sys2Proof.Machine.execRdr start count s
  | .wrr start count => Sys2Proof.Machine.execWrr start count s
  | .rdd => Sys2Proof.Machine.execRdd s
  | .oneshot => Sys2Proof.Machine.execOneshot s
  | .temp r => Sys2Proof.Machine.execTemp r s
  | .cjt r => Sys2Proof.Machine.execCjt r s
  | .flt r => Sys2Proof.Machine.execFlt r s
  | .mld addr => Sys2Proof.Machine.execMld addr s
  | .mst addr data => Sys2Proof.Machine.execMst addr data s
  | .busRead a n => Sys2Proof.Machine.execBusRead a n s
  | .busWrite a payload => Sys2Proof.Machine.execBusWrite a payload s

end Sys2Proof.Machine
end

