-- ==== Sys2Proof/Machine/Port.lean ====
section
/-! DEFINITION. What the step does at the command port: taking the next input, and the answer to a word that is no
command (spec/30_encoding.md R101; spec/60_exceptions.md R204). -/

namespace Sys2Proof.Machine

/-- The exception of a command word that is none of the ten commands (R101, R204). -/
def illegalCommand (c : Word) (s : State) : State := raise false (.illegalCommand c) (accept s)

/-- Run what has been presented. -/
def runRequest (q : Request) (s : State) : Host.Outcome State Fault Refusal :=
  match decode q with
  | .ok i => exec i s
  | .error e =>
    match q with
    | .command c => .next (illegalCommand c s)
    | .frame _ => .refused (.malformedFrame e)

/-- One step. The reset input acts at once. While `busy` no command is accepted (R27). With nothing presented the
controller waits (R42); else it takes the next input and runs it to completion (R70, R72). -/
def stepPort (s : State) : Host.Outcome State Fault Refusal :=
  match s.port with
  | [] => .next s
  | .reset :: rest => .next (assertReset { s with port := rest })
  | .request q :: rest => if s.busy then .next s else runRequest q { s with port := rest }

/-- Present `q` as the very next input, to a controller that accepts it. -/
def presentNext (q : Request) (s : State) : State := { s with busy := false, port := .request q :: s.port }

end Sys2Proof.Machine
end

