-- ==== Sys2Proof/Machine/Step.lean ====
section
/-! DEFINITION. One step of the machine: one host command (or one bus frame, or the reset input) run to completion
(spec/00_scope.md R7, spec/20_memory.md R70, R72). -/

namespace Sys2Proof.Machine

def step (s : State) : Host.Outcome State Fault Refusal := stepPort s

/-- The state with a table word presented as the next input, so that the next step runs it (log entry 7). -/
def State.withFetchWord (s : State) (nbits w : Nat) : State := presentNext (requestOfTableWord nbits w) s

end Sys2Proof.Machine
end

