-- ==== Sys2Proof/Machine/Assembly.lean ====
section
/-! DEFINITION. The written form of a command (spec/30_encoding.md R103): addresses and bytes in hexadecimal, counts in
decimal, the type by name or `#n`, optional `INIT` operands only when present. A bus frame has no written form in the
spec and is shown as its bytes (spec/95_test_vectors.md section 2.2). -/

namespace Sys2Proof.Machine

/-- A hexadecimal digit. -/
def hexDigit (n : Nat) : String :=
  ["0", "1", "2", "3", "4", "5", "6", "7", "8", "9", "A", "B", "C", "D", "E", "F"].getD n "?"

/-- Two hexadecimal digits. -/
def hexByte (b : Byte) : String := hexDigit (b.toNat / 16) ++ hexDigit (b.toNat % 16)

/-- An address as `0xNN`. -/
def hexAddr (a : BitVec 4) : String := "0x0" ++ hexDigit a.toNat

/-- A small count in decimal (two digits suffice for the 5-bit `count` and the 4-bit `#n`). -/
def decimal (n : Nat) : String := if n < 10 then hexDigit n else hexDigit (n / 10) ++ hexDigit (n % 10)

/-- The type operand of `INIT`. -/
def typeOperand (tsel : BitVec 4) : String :=
  match Thermocouple.ofSelector tsel with
  | some t => t.name
  | none => "#" ++ decimal tsel.toNat

/-- The refresh operand. -/
def refreshOperand (r : Bool) : String := if r then "r=1" else "r=0"

/-- The bytes of a frame as the spec lists them, one space between. -/
def frameText : List Byte → String
  | [] => ""
  | [b] => hexByte b
  | b :: c :: rest => hexByte b ++ " " ++ frameText (c :: rest)

/-- The written form. -/
def assembly : Instr → String
  | .init tsel cr0v cr1v cr0 cr1 =>
      "INIT " ++ typeOperand tsel ++ (if cr0v then ", cr0=0x" ++ hexByte cr0 else "")
        ++ (if cr1v then ", avg=0x" ++ hexByte cr1 else "")
  | .rdr start count => "RDR " ++ hexAddr start ++ ", " ++ decimal count.toNat
  | .wrr start count => "WRR " ++ hexAddr start ++ ", " ++ decimal count.toNat
  | .rdd => "RDD"
  | .oneshot => "ONESHOT"
  | .temp r => "TEMP " ++ refreshOperand r
  | .cjt r => "CJT " ++ refreshOperand r
  | .flt r => "FLT " ++ refreshOperand r
  | .mld addr => "MLD " ++ hexAddr addr
  | .mst addr data => "MST " ++ hexAddr addr ++ ", 0x" ++ hexByte data
  | .busRead a n => frameText (readFrame a.toNat n.toNat)
  | .busWrite a payload => frameText (writeFrame a.toNat payload)

end Sys2Proof.Machine
end

