-- ==== Sys2Proof/Machine/Trace.lean ====
section
/-! DEFINITION. The outputs that show the bus: the chip-select line and the wire level (spec/10_state.md R24;
spec/20_memory.md R66, informative) and the trace port (spec/60_exceptions.md R222). They are functions of the state
and change nothing. -/

namespace Sys2Proof.Machine

/-- The line `CS_n`, active low: 0 when `cs = ACTIVE` (R24). -/
def csLine (s : State) : Bool := decide (s.cs = .inactive)

/-- The level at which the clock idles (R66). -/
def clockIdleLevel (s : State) : BitVec 1 := s.buscfg.cpol

/-- Data is sampled on the second clock edge when `CPHA` is 1 (R66). -/
def samplesOnSecondEdge (s : State) : Bool := decide (s.buscfg.cpha = 1#1)

/-- A byte on the data line, most significant bit first (R66). -/
def bitsMsbFirst (b : Byte) : List Bool := [7, 6, 5, 4, 3, 2, 1, 0].map fun i => b.getLsbD i

/-- The data bytes that crossed the bus in one frame. -/
structure FrameBytes where
  sent : List Byte
  received : List Byte
  deriving DecidableEq, Repr

/-- The frames on the wire, oldest first; `open_` holds what the frame in progress has moved so far. -/
def framesFrom (open_ : FrameBytes) : List WireEvent → List FrameBytes
  | [] => []
  | .select :: rest => framesFrom { sent := [], received := [] } rest
  | .sent t :: rest => framesFrom { open_ with sent := open_.sent ++ [t] } rest
  | .duplex t r :: rest => framesFrom { sent := open_.sent ++ [t], received := open_.received ++ [r] } rest
  | .broken :: rest => framesFrom open_ rest
  | .wait _ :: rest => framesFrom open_ rest
  | .deselect :: rest => open_ :: framesFrom { sent := [], received := [] } rest

/-- The frames on the wire since reset. -/
def framesOf (wire : List WireEvent) : List FrameBytes := framesFrom { sent := [], received := [] } wire

/-- Every byte the controller has sent, in order. -/
def sentBytes (wire : List WireEvent) : List Byte := (framesOf wire).flatMap FrameBytes.sent

/-- The kind of a trace record. -/
inductive TraceKind where
  | w
  | r
  | f
  deriving DecidableEq, Repr

/-- One record of the trace port: kind, start address, byte count, the bytes sent and received (R222). -/
structure TraceRecord where
  kind : TraceKind
  start : Nat
  count : Nat
  bytes : FrameBytes
  deriving DecidableEq, Repr

/-- The record of an event whose frame moved these bytes. -/
def traceRecord (e : BusEvent) (bytes : FrameBytes) : TraceRecord :=
  match e with
  | .w a ds => { kind := .w, start := a, count := ds.length, bytes := bytes }
  | .r a n _ => { kind := .r, start := a, count := n, bytes := bytes }
  | .f _ a k => { kind := .f, start := a, count := k, bytes := bytes }

/-- What the trace port has presented since reset (R222). -/
def tracePort (s : State) : List TraceRecord := List.zipWith traceRecord s.hist (framesOf s.wire)

end Sys2Proof.Machine
end

