-- ==== Sys2Proof/Safety.lean ====
section
/-! DEFINITION. The terms in which claims are made: what the wire shows of a transaction (spec/40_bus_transactions.md
R120, R121, R125), when the history and the wire agree, the invariant of the machine between commands
(spec/10_state.md R24, R25, R27; spec/70_reset_and_hazards.md R231, R233), and what a command may read and write
(spec/10_state.md R23). -/

namespace Sys2Proof.Machine

/-- Quiescence (R233): not busy, chip-select inactive, sequencer idle, no timer running. -/
structure Quiescent (s : State) : Prop where
  busy : s.busy = false
  cs : s.cs = .inactive
  phase : s.phase = .idle
  delay : s.delay = 0

/-- Every one of the 16 mirror bytes holds a value. -/
def MirrorComplete (m : Memory) : Prop := ∀ a, a < Params.nreg → (m.read a).isSome = true

/-- The status of the last response. -/
def lastStatus (s : State) : BitVec 4 :=
  match s.resp with
  | none => 0
  | some r => r.status

/-- The invariant between commands: the controller is quiescent; the sequencer's fields stay in the ranges R25 gives;
the mirror is canonical and, when `life = READY`, complete, with the bus port configured; `err` is one of the six
codes and the status of the last response. -/
structure Inv (s : State) : Prop where
  quiescent : Quiescent s
  ptr : s.ptr ≤ 16
  left : s.left ≤ 16
  xbuf : s.xbuf.length = 17
  mirror : s.mirror.wf
  complete : s.life = .ready → MirrorComplete s.mirror
  configured : s.life = .ready → s.buscfg.configured = true
  err : s.err ≤ 5
  answered : s.err = lastStatus s

/-! ### The wire -/

/-- A completed write transaction on the wire: select, the frame sent, deselect (R120, R121). -/
def wireOfWrite (a : Nat) (payload : List Byte) : List WireEvent :=
  .select :: (writeFrame a payload).map .sent ++ [.deselect]

/-- A completed read transaction on the wire: select, each sent byte with the byte received in its byte time,
deselect; `received` begins with the byte received during the address byte (R120, R125). -/
def wireOfRead (a n : Nat) (received : List Byte) : List WireEvent :=
  .select :: List.zipWith .duplex (readFrame a n) received ++ [.deselect]

/-- What the wire shows of one event of the history. A failed transaction shows the `k` bytes exchanged before the
failing one, and chip-select released all the same (R120 (iv), R121, R125). -/
inductive Renders : BusEvent → List WireEvent → Prop where
  | w (a : Nat) (payload : List Byte) (fits : burstFits a payload.length = true) :
      Renders (.w a payload) (wireOfWrite a payload)
  | r (a n : Nat) (x : Byte) (bytes : List Byte) (fits : burstFits a n = true) (length : bytes.length = n) :
      Renders (.r a n bytes) (wireOfRead a n (x :: bytes))
  | fw (a k : Nat) (payload : List Byte) (fits : burstFits a payload.length = true) (k_le : k ≤ payload.length) :
      Renders (.f .wr a k) (.select :: ((writeFrame a payload).take k).map .sent ++ [.broken, .deselect])
  | fr (a n k : Nat) (received : List Byte) (fits : burstFits a n = true) (k_le : k ≤ n) (length : received.length = k) :
      Renders (.f .rd a k) (.select :: List.zipWith .duplex ((readFrame a n).take k) received ++ [.broken, .deselect])

/-- The history and the wire tell the same story: the wire is the events of the history in order, each shown whole,
with nothing else but one-shot waits between transactions (R28, R72, R120, R137). -/
inductive Agrees : List BusEvent → List WireEvent → Prop where
  | nil : Agrees [] []
  | wait (hist : List BusEvent) (wire : List WireEvent) (d : Nat) (h : Agrees hist wire) :
      Agrees hist (wire ++ [.wait d])
  | event (hist : List BusEvent) (wire shown : List WireEvent) (e : BusEvent) (h : Agrees hist wire)
      (r : Renders e shown) : Agrees (hist ++ [e]) (wire ++ shown)

/-- Chip-select brackets every byte: a byte (or a failed exchange) only between select and deselect, no select inside a
transaction, a wait only outside (R120, R173). The Bool says whether a transaction is open. -/
def bracketedFrom : Bool → List WireEvent → Bool
  | isOpen, [] => !isOpen
  | false, .select :: rest => bracketedFrom true rest
  | false, .wait _ :: rest => bracketedFrom false rest
  | false, .sent _ :: _ => false
  | false, .duplex _ _ :: _ => false
  | false, .broken :: _ => false
  | false, .deselect :: _ => false
  | true, .select :: _ => false
  | true, .wait _ :: _ => false
  | true, .sent _ :: rest => bracketedFrom true rest
  | true, .duplex _ _ :: rest => bracketedFrom true rest
  | true, .broken :: rest => bracketedFrom true rest
  | true, .deselect :: rest => bracketedFrom false rest

/-- The environment will answer the coming exchanges with these bytes, none failing, and go on with `rest`. -/
def Heard (s : State) (bytes : List Byte) (rest : List Answer) : Prop :=
  s.answers = bytes.map Answer.reply ++ rest

/-- The environment will answer some exchanges with these bytes and let the one after them fail. -/
def HeardThenFails (s : State) (bytes : List Byte) (rest : List Answer) : Prop :=
  s.answers = bytes.map Answer.reply ++ .fail :: rest

/-! ### Who reads and who writes the mirror (R23) -/

/-- The mirror bytes an instruction may write. -/
def mayWrite (i : Instr) (a : Nat) : Bool :=
  match i with
  | .init _ _ _ _ _ => decide (a < Params.nreg)
  | .rdr start count => decide (start.toNat ≤ a) && decide (a < start.toNat + count.toNat)
  | .wrr _ _ => false
  | .rdd => decide (Params.dataStart ≤ a) && decide (a < Params.nreg)
  | .oneshot => decide (a = Params.addrCr0) || decide (Params.dataStart ≤ a) && decide (a < Params.nreg)
  | .temp r => r && decide (Params.dataStart ≤ a) && decide (a < Params.nreg)
  | .cjt r => r && decide (Params.dataStart ≤ a) && decide (a < Params.nreg)
  | .flt r => r && decide (Params.dataStart ≤ a) && decide (a < Params.nreg)
  | .mld _ => false
  | .mst addr _ => decide (a = addr.toNat)
  | .busRead _ _ => false
  | .busWrite _ _ => false

/-- The host commands; the others are the bus frames. -/
def isCommand : Instr → Bool
  | .init _ _ _ _ _ => true
  | .rdr _ _ => true
  | .wrr _ _ => true
  | .rdd => true
  | .oneshot => true
  | .temp _ => true
  | .cjt _ => true
  | .flt _ => true
  | .mld _ => true
  | .mst _ _ => true
  | .busRead _ _ => false
  | .busWrite _ _ => false

/-- `INIT`. -/
def isInit : Instr → Bool
  | .init _ _ _ _ _ => true
  | .rdr _ _ => false
  | .wrr _ _ => false
  | .rdd => false
  | .oneshot => false
  | .temp _ => false
  | .cjt _ => false
  | .flt _ => false
  | .mld _ => false
  | .mst _ _ => false
  | .busRead _ _ => false
  | .busWrite _ _ => false

/-- The commands that need `life = READY`: every command but `INIT` (R205). -/
def needsReady (i : Instr) : Bool := isCommand i && !isInit i

/-- How many events an instruction appends when no exception occurs (R137; a frame run on its own is one
transaction). -/
def transactions : Instr → Nat
  | .init _ _ _ _ _ => 3
  | .rdr _ _ => 1
  | .wrr _ _ => 1
  | .rdd => 1
  | .oneshot => 2
  | .temp r => if r then 1 else 0
  | .cjt r => if r then 1 else 0
  | .flt r => if r then 1 else 0
  | .mld _ => 0
  | .mst _ _ => 0
  | .busRead _ _ => 1
  | .busWrite _ _ => 1

end Sys2Proof.Machine
end

