-- ==== Sys2Proof/Certificates/Slice0/Obligations.lean ====
section
/-! DEFINITION. The statements for the provers. Each docstring names the rule of the spec it formalises, or says that
the statement is the model's own choice and names the log entry. -/

open Sys2Proof Sys2Proof.Machine

/-! ### Reset, the port, the step -/

/-- R230 (and the table of R42): the reset input, from every state, leaves no mirror byte with a value, chip-select
inactive, the sequencer idle, `life = UNINIT`, `err = 0`, `busy = 0`, the bus port not configured, an empty history; no
byte is exchanged (the environment's answers are all still there, the wire shows nothing). The answers, the wire and the port list are the
model's own fields (log entries 2, 5, 7). -/
def Obligations.ResetInputLeavesResetValues : Prop :=
  ∀ (s : State) (rest : List PortInput), s.port = .reset :: rest →
    ∃ t, step s = .next t ∧ (∀ a, t.mirror.read a = none) ∧ t.cs = .inactive ∧ t.phase = .idle ∧ t.life = .uninit ∧
      t.err = 0 ∧ t.busy = false ∧ t.buscfg.configured = false ∧ t.hist = [] ∧ t.wire = [] ∧ t.answers = s.answers ∧
      t.draws = s.draws ∧ t.port = rest

/-- R42, R26, R27: with nothing presented the controller waits; while `busy = 1` it accepts no command. That a request
presented meanwhile stays at the port, neither lost nor answered, is THE MODEL'S inference and concerns only states that no
run reaches (log entry 16); the port list is the model's own (log entry 7). -/
def Obligations.PortWaitsWhenIdleOrBusy : Prop :=
  (∀ s : State, s.port = [] → step s = .next s) ∧
    ∀ (s : State) (q : Request) (rest : List PortInput), s.port = .request q :: rest → s.busy = true → step s = .next s

/-- What is presented and decodes to `i` is run: the step is `exec i` on the state with the port moved on by one
(R70, R72; log entry 7). -/
def Obligations.StepRunsDecodedInstruction : Prop :=
  ∀ (s : State) (q : Request) (rest : List PortInput) (i : Instr),
    s.port = .request q :: rest → s.busy = false → decode q = .ok i → step s = exec i { s with port := rest }

/-- R204: a command word that is none of the ten commands: `err` and the response carry code 4 and the word, and
nothing else changes (but that the word has been taken from the port). -/
def Obligations.IllegalWordRaisesIllegalCommand : Prop :=
  ∀ (s : State) (c : Word) (rest : List PortInput) (e : DecodeError),
    s.port = .request (.command c) :: rest → Quiescent s → decodeCommand c = .error e →
      step s = .next { s with port := rest, err := 4, resp := some { status := 4, rsp := c } }

/-! ### Encodings -/

/-- R100: a word is the command exactly when it agrees with the row's match under its mask, with the fields where R96
puts them and as they stand (R98); a frame that decodes is of the kind its first byte's row says. -/
def Obligations.CommandWordsDecodeByTheirRow : Prop :=
  (∀ (b : Byte) (data : List Byte) (i : Instr), decodeFrame (b :: data) = .ok i →
    (b &&& 0x80#8 = 0x00#8 ↔ ∃ a n, i = .busRead a n) ∧ (b &&& 0x80#8 = 0x80#8 ↔ ∃ a payload, i = .busWrite a payload)) ∧
  ∀ c : Word,
    (c &&& 0xF03F0000#32 = 0x10000000#32 ↔ decodeCommand c =
      .ok (.init (c.extractLsb' 24 4) (c.getLsbD 23) (c.getLsbD 22) (c.extractLsb' 8 8) (c.extractLsb' 0 8))) ∧
    (c &&& 0xF007FFFF#32 = 0x20000000#32 ↔ decodeCommand c = .ok (.rdr (c.extractLsb' 24 4) (c.extractLsb' 19 5))) ∧
    (c &&& 0xF007FFFF#32 = 0x30000000#32 ↔ decodeCommand c = .ok (.wrr (c.extractLsb' 24 4) (c.extractLsb' 19 5))) ∧
    (c &&& 0xFFFFFFFF#32 = 0x40000000#32 ↔ decodeCommand c = .ok .rdd) ∧
    (c &&& 0xFFFFFFFF#32 = 0x50000000#32 ↔ decodeCommand c = .ok .oneshot) ∧
    (c &&& 0xF7FFFFFF#32 = 0x60000000#32 ↔ decodeCommand c = .ok (.temp (c.getLsbD 27))) ∧
    (c &&& 0xF7FFFFFF#32 = 0x70000000#32 ↔ decodeCommand c = .ok (.cjt (c.getLsbD 27))) ∧
    (c &&& 0xF7FFFFFF#32 = 0x80000000#32 ↔ decodeCommand c = .ok (.flt (c.getLsbD 27))) ∧
    (c &&& 0xF0FFFFFF#32 = 0x90000000#32 ↔ decodeCommand c = .ok (.mld (c.extractLsb' 24 4))) ∧
    (c &&& 0xF0FFFF00#32 = 0xA0000000#32 ↔ decodeCommand c = .ok (.mst (c.extractLsb' 24 4) (c.extractLsb' 0 8)))

/-- Words written out from the encodings of R96 and the frames of R91 to R93 (spec/95_test_vectors.md 2.1, 2.2). -/
def Obligations.SpecWordsDecode : Prop :=
  decode (.command 0x12C01120#32) = .ok (.init 2 true true 0x11 0x20) ∧
  decode (.command 0x2A300000#32) = .ok (.rdr 0xA 6) ∧
  decode (.command 0x50000000#32) = .ok .oneshot ∧
  decode (.command 0x68000000#32) = .ok (.temp true) ∧
  decode (.command 0xA20000FF#32) = .ok (.mst 2 0xFF) ∧
  decode (.command 0x91000001#32) = .error .reservedBit ∧
  decode (.command 0xB0000000#32) = .error .illegalOpcode ∧
  decode (.frame [0x82#8, 0xFF#8]) = .ok (.busWrite 2 [0xFF#8]) ∧
  decode (.frame [0x0F#8, 0x00#8]) = .ok (.busRead 0xF 1)

/-- Decoding the encoding of a well-formed instruction gives it back, every operand at every value (R91 to R93, R96). -/
def Obligations.DecodeOfEncodeIsIdentity : Prop :=
  ∀ i : Instr, i.wellFormed = true → decode (encode i) = .ok i

/-- What decodes to an instruction is the encoding of that instruction: no bit and no byte is dropped (R96, R101). -/
def Obligations.EncodeOfDecodeIsIdentity : Prop :=
  ∀ (q : Request) (i : Instr), decode q = .ok i → encode i = q

/-! ### Refusals of the command port -/

/-- R205: every command but `INIT`, while `life` is `UNINIT` or `FAILED`: code 5, nothing else changes. -/
def Obligations.NotConstructedRefusesEveryCommandButInit : Prop :=
  ∀ (i : Instr) (s : State), needsReady i = true → s.life ≠ .ready → Quiescent s →
    exec i s = .next { s with err := 5, resp := some { status := 5, rsp := 0 } }

/-- R203 (and R68): `RDR` and `WRR` with `start + count > 16`: code 3 with start and count, no bus activity, no mirror
change, `life` unchanged. -/
def Obligations.RangeErrorRefusesOverrun : Prop :=
  ∀ (start : BitVec 4) (count : BitVec 5) (s : State),
    s.life = .ready → Quiescent s → 16 < start.toNat + count.toNat →
      exec (.rdr start count) s =
          .next { s with err := 3, resp := some { status := 3, rsp := 0#20 ++ start ++ 0#3 ++ count } } ∧
        exec (.wrr start count) s =
          .next { s with err := 3, resp := some { status := 3, rsp := 0#20 ++ start ++ 0#3 ++ count } }

/-- THE MODEL'S CHOICE (log entry 11): a bus frame outside the 16 registers is turned away as `RangeError`, with no bus
activity (R68, R102). -/
def Obligations.FramesOutsideTheRegistersAreTurnedAway : Prop :=
  (∀ (a : BitVec 7) (n : BitVec 5) (s : State), Quiescent s → 16 < a.toNat + n.toNat ∨ 16 ≤ a.toNat →
    ∃ w, exec (.busRead a n) s = .next { s with err := 3, resp := some { status := 3, rsp := w } }) ∧
  ∀ (a : BitVec 7) (payload : List Byte) (s : State), Quiescent s → 16 < a.toNat + payload.length ∨ 16 ≤ a.toNat →
    ∃ w, exec (.busWrite a payload) s = .next { s with err := 3, resp := some { status := 3, rsp := w } }

/-- R231: in a state that no run from reset reaches, a command that needs a mirror byte without a value stops. -/
def Obligations.ByteWithoutValueFaults : Prop :=
  ∀ s : State, s.life = .ready →
    (∀ addr : BitVec 4, s.mirror.read addr.toNat = none → exec (.mld addr) s = .fault .mirrorByteWithoutValue) ∧
    (∀ (start : BitVec 4) (count : BitVec 5), start.toNat + count.toNat ≤ 16 →
      s.mirror.readRange start.toNat count.toNat = none →
        exec (.wrr start count) s = .fault .mirrorByteWithoutValue) ∧
    (s.mirror.read 0x00 = none → exec .oneshot s = .fault .mirrorByteWithoutValue) ∧
    (s.mirror.lt32 = none → exec (.temp false) s = .fault .mirrorByteWithoutValue) ∧
    (s.mirror.cjt = none → exec (.cjt false) s = .fault .mirrorByteWithoutValue) ∧
    (s.mirror.flt = none → exec (.flt false) s = .fault .mirrorByteWithoutValue)

/-! ### The transactions and the mirror's commands -/

/-- R121: a write transaction whose exchanges complete: the bytes on the wire between select and deselect, the event;
no mirror byte changes and no received byte is kept. Where the exchange with frame index `k` fails: the `k` bytes before
it have been sent, chip-select is released, the `F` event is appended, the exception is raised. THE MODEL'S CHOICE: that a
bare frame runs in every lifecycle state, gives no response and leaves `err` and `life` alone when it completes, and fails
through the error exit (log entry 4); what `ptr`, `left`, `dir` and `xbuf` keep (log entry 17); the wire record
(log entry 5). -/
def Obligations.BusWriteSendsItsFrame : Prop :=
  ∀ (a : BitVec 7) (payload received : List Byte) (rest : List Answer) (s : State),
    a.toNat < 16 → a.toNat + payload.length ≤ 16 →
    (received.length = payload.length + 1 → Heard s received rest →
      exec (.busWrite a payload) s = .next
        { s with
          cs := .inactive
          phase := .idle
          ptr := BitVec.ofNat 5 (a.toNat + payload.length)
          left := 0
          dir := .wr
          xbuf := (0x80#8 ||| BitVec.ofNat 8 a.toNat) :: payload ++ s.xbuf.drop (payload.length + 1)
          busy := false
          hist := s.hist ++ [.w a.toNat payload]
          answers := rest
          wire := s.wire ++ (.select :: .sent (0x80#8 ||| BitVec.ofNat 8 a.toNat) :: payload.map .sent ++ [.deselect]) }) ∧
    (received.length ≤ payload.length → HeardThenFails s received rest →
      ∃ t, exec (.busWrite a payload) s = .next t ∧ t.err = 2 ∧
        t.resp = some { status := 2, rsp := 0x10000#32 ||| BitVec.ofNat 32 (a.toNat * 256 + received.length) } ∧
        t.cs = .inactive ∧ t.phase = .idle ∧ t.busy = false ∧ t.life = s.life ∧ t.mirror = s.mirror ∧
        t.hist = s.hist ++ [.f .wr a.toNat received.length] ∧
        t.wire = s.wire ++
          (.select :: (((0x80#8 ||| BitVec.ofNat 8 a.toNat) :: payload).take received.length).map .sent ++
            [.broken, .deselect]))

/-- R125: a read transaction whose exchanges complete: the address byte and the placeholders on the wire, the captured
bytes in the exchange buffer and the history, the byte received during the address byte left out of them. Where the
exchange with frame index `k` fails: chip-select is released, the `F` event is appended, the exception is raised;
`BUS_READ` itself touches no mirror byte. THE MODEL'S CHOICE: that a bare frame runs in every lifecycle state, gives no
response and leaves `err`, `life` and the mirror alone when it completes, and fails through the error exit (log entry 4);
what `ptr`, `left`, `dir` and `xbuf` keep (log entry 17); the wire record (log entry 5). -/
def Obligations.BusReadCapturesItsBytes : Prop :=
  ∀ (a : BitVec 7) (n : BitVec 5) (x : Byte) (bytes : List Byte) (rest : List Answer) (s : State),
    a.toNat < 16 → a.toNat + n.toNat ≤ 16 →
    (bytes.length = n.toNat → Heard s (x :: bytes) rest →
      exec (.busRead a n) s = .next
        { s with
          cs := .inactive
          phase := .idle
          ptr := BitVec.ofNat 5 (a.toNat + n.toNat)
          left := 0
          dir := .rd
          xbuf := x :: bytes ++ s.xbuf.drop (n.toNat + 1)
          busy := false
          hist := s.hist ++ [.r a.toNat n.toNat bytes]
          answers := rest
          wire := s.wire ++
            (.select :: .duplex (BitVec.ofNat 8 a.toNat) x :: bytes.map (.duplex 0x00#8) ++ [.deselect]) }) ∧
    (bytes.length ≤ n.toNat → HeardThenFails s bytes rest →
      ∃ t, exec (.busRead a n) s = .next t ∧ t.err = 2 ∧
        t.resp = some { status := 2, rsp := BitVec.ofNat 32 (a.toNat * 256 + bytes.length) } ∧
        t.cs = .inactive ∧ t.phase = .idle ∧ t.busy = false ∧ t.life = s.life ∧ t.mirror = s.mirror ∧
        t.hist = s.hist ++ [.f .rd a.toNat bytes.length])

/-- R123: `WRR` sends what the mirror holds in one write transaction; the mirror stays, and every field not named stays.
What `ptr`, `left`, `dir` and `xbuf` keep after the transaction is THE MODEL'S inference (log entry 17; R25 gives them no
meaning between commands), and the wire is the model's own record (log entry 5). -/
def Obligations.WrrPushesTheMirrorRange : Prop :=
  ∀ (start : BitVec 4) (count : BitVec 5) (payload received : List Byte) (rest : List Answer) (s : State),
    s.life = .ready → start.toNat + count.toNat ≤ 16 → s.mirror.readRange start.toNat count.toNat = some payload →
    received.length = count.toNat + 1 → Heard s received rest →
      exec (.wrr start count) s = .next
        { s with
          cs := .inactive
          phase := .idle
          ptr := BitVec.ofNat 5 (start.toNat + count.toNat)
          left := 0
          dir := .wr
          xbuf := (0x80#8 ||| BitVec.ofNat 8 start.toNat) :: payload ++ s.xbuf.drop (count.toNat + 1)
          err := 0
          resp := some { status := 0, rsp := 0 }
          busy := false
          hist := s.hist ++ [.w start.toNat payload]
          answers := rest
          wire := s.wire ++
            (.select :: .sent (0x80#8 ||| BitVec.ofNat 8 start.toNat) :: payload.map .sent ++ [.deselect]) }

/-- R124: `RDR` stores the captured bytes in the mirror range and answers 0; every field not named stays. What `ptr`,
`left`, `dir` and `xbuf` keep after the transaction is THE MODEL'S inference (log entry 17; R25 gives them no meaning between
commands), and the wire is the model's own record (log entry 5). -/
def Obligations.RdrPullsIntoTheMirrorRange : Prop :=
  ∀ (start : BitVec 4) (count : BitVec 5) (x : Byte) (bytes : List Byte) (rest : List Answer) (s : State),
    s.life = .ready → start.toNat + count.toNat ≤ 16 → bytes.length = count.toNat → Heard s (x :: bytes) rest →
      exec (.rdr start count) s = .next
        { s with
          mirror := s.mirror.writeRange start.toNat bytes
          cs := .inactive
          phase := .idle
          ptr := BitVec.ofNat 5 (start.toNat + count.toNat)
          left := 0
          dir := .rd
          xbuf := x :: bytes ++ s.xbuf.drop (count.toNat + 1)
          err := 0
          resp := some { status := 0, rsp := 0 }
          busy := false
          hist := s.hist ++ [.r start.toNat count.toNat bytes]
          answers := rest
          wire := s.wire ++
            (.select :: .duplex (BitVec.ofNat 8 start.toNat) x :: bytes.map (.duplex 0x00#8) ++ [.deselect]) }

/-- R124, read by read: after a completed `RDR` the mirror holds byte `i` of the answer at `start + i`, and every
address outside the range reads as before. -/
def Obligations.RdrStoresEachByteAtItsAddress : Prop :=
  ∀ (start : BitVec 4) (count : BitVec 5) (x : Byte) (bytes : List Byte) (rest : List Answer) (s : State),
    s.life = .ready → start.toNat + count.toNat ≤ 16 → bytes.length = count.toNat → Heard s (x :: bytes) rest →
      ∃ t, exec (.rdr start count) s = .next t ∧
        (∀ i, i < count.toNat → t.mirror.read (start.toNat + i) = bytes[i]?) ∧
        ∀ a, a < start.toNat ∨ start.toNat + count.toNat ≤ a → t.mirror.read a = s.mirror.read a

/-- R130: `RDD` is in every respect `RDR 0x0A, 6`; with six answers b0 to b5 it completes, and addresses 0x0A to 0x0F of
the mirror, and no others, hold them. -/
def Obligations.RddRefreshesTheDataRegisters : Prop :=
  (∀ s : State, exec .rdd s = exec (.rdr 0xA 6) s) ∧
    ∀ (x b0 b1 b2 b3 b4 b5 : Byte) (rest : List Answer) (s : State),
      s.life = .ready → Heard s [x, b0, b1, b2, b3, b4, b5] rest →
        ∃ t, exec .rdd s = .next t ∧ t.mirror.read 0x0A = some b0 ∧ t.mirror.read 0x0B = some b1 ∧
          t.mirror.read 0x0C = some b2 ∧ t.mirror.read 0x0D = some b3 ∧ t.mirror.read 0x0E = some b4 ∧
          t.mirror.read 0x0F = some b5 ∧ (∀ a, a < 0x0A ∨ 0x10 ≤ a → t.mirror.read a = s.mirror.read a) ∧
          t.hist = s.hist ++ [.r 0x0A 6 [b0, b1, b2, b3, b4, b5]] ∧ t.err = 0 ∧
          t.resp = some { status := 0, rsp := 0 } ∧ t.life = .ready

/-- R135: `MLD` answers the mirror byte, extended with zeros; no bus activity, nothing else changes; its only exception
is `NotConstructed`. -/
def Obligations.MldReturnsTheMirrorByte : Prop :=
  ∀ (addr : BitVec 4) (s : State),
    (∀ b, s.life = .ready → s.mirror.read addr.toNat = some b →
      exec (.mld addr) s =
        .next { s with err := 0, resp := some { status := 0, rsp := 0#24 ++ b }, busy := false }) ∧
    ∀ t, exec (.mld addr) s = .next t → t.err = 0 ∧ s.life = .ready ∨ t.err = 5 ∧ s.life ≠ .ready

/-- R136: `MST` stores its byte at its address of the mirror, any address being allowed; no bus activity, nothing else
changes; its only exception is `NotConstructed`. -/
def Obligations.MstStoresTheMirrorByte : Prop :=
  ∀ (addr : BitVec 4) (data : Byte) (s : State),
    (s.life = .ready → ∃ m : Memory,
      exec (.mst addr data) s =
          .next { s with mirror := m, err := 0, resp := some { status := 0, rsp := 0 }, busy := false } ∧
        m.read addr.toNat = some data ∧ ∀ a, a ≠ addr.toNat → m.read a = s.mirror.read a) ∧
    ∀ t, exec (.mst addr data) s = .next t → t.err = 0 ∧ s.life = .ready ∨ t.err = 5 ∧ s.life ≠ .ready

/-! ### Initialization -/

/-- R33, R97, R155: the ten selectors with their types and codes (no type for 10 to 15), and the laws of the CR1 merge. -/
def Obligations.Cr1MergeKeepsBothNibbles : Prop :=
  (∀ tsel : BitVec 4, (Thermocouple.ofSelector tsel).map (fun ty => (ty.name, ty.code)) =
    [("B", 0x0#4), ("E", 0x1#4), ("J", 0x2#4), ("K", 0x3#4), ("N", 0x4#4), ("R", 0x5#4), ("S", 0x6#4), ("T", 0x7#4),
      ("VG8", 0x8#4), ("VG32", 0xC#4)][tsel.toNat]?) ∧
  (∀ (avg : Byte) (ty : Thermocouple), cr1Type (mergeCr1 avg ty.code) = ty.code ∧
    cr1Avg (mergeCr1 avg ty.code) = cr1Avg avg) ∧
  (∀ (avg : Byte) (ty u : Thermocouple), cr1Avg (mergeCr1 avg ty.code) = cr1Avg (mergeCr1 avg u.code)) ∧
  (∀ (avg avg' : Byte) (ty : Thermocouple), cr1Type (mergeCr1 avg ty.code) = cr1Type (mergeCr1 avg' ty.code)) ∧
  mergeCr1 0x40#8 Thermocouple.K.code = 0x43#8

/-- R160 (with R153 to R158, R161): a completed `INIT`. The code sent in the low nibble of CR1 is, for selectors 0 to 9,
0 to 8 and 0xC (R33, R97). From every lifecycle state and whatever the mirror held: a read of 16,
a write of CR0, CR1 and the mask, a read of 3; the mirror then holds the three bytes read back, unverified, and behind
them those of the first read. -/
def Obligations.InitConstructsTheController : Prop :=
  ∀ (tsel : BitVec 4) (cr0v cr1v : Bool) (cr0 cr1 x x' : Byte) (first back w : List Byte) (rest : List Answer)
    (code : BitVec 4) (s : State),
    [0x0#4, 0x1#4, 0x2#4, 0x3#4, 0x4#4, 0x5#4, 0x6#4, 0x7#4, 0x8#4, 0xC#4][tsel.toNat]? = some code →
    first.length = 16 → w.length = 4 → back.length = 3 →
    Heard s ((x :: first) ++ w ++ (x' :: back)) rest →
      ∃ t, exec (.init tsel cr0v cr1v cr0 cr1) s = .next t ∧
        (∀ a, a < 3 → t.mirror.read a = back[a]?) ∧
        (∀ a, 3 ≤ a → a < 16 → t.mirror.read a = first[a]?) ∧
        (∀ a, 16 ≤ a → t.mirror.read a = s.mirror.read a) ∧
        t.life = .ready ∧ t.cs = .inactive ∧ t.phase = .idle ∧ t.err = 0 ∧ t.busy = false ∧
        t.resp = some { status := 0, rsp := 0 } ∧
        t.buscfg =
          { configured := true, clockHz := Config.spiClockHz, cpol := Config.spiCpol, cpha := Config.spiCpha } ∧
        t.hist = s.hist ++
          [.r 0 16 first,
            .w 0 [if cr0v then cr0 else 0x93#8, ((if cr1v then cr1 else 0x40#8) &&& 0xF0#8) ||| (0#4 ++ code), 0x00#8],
            .r 0 3 back] ∧
        t.answers = rest ∧ t.delay = s.delay ∧ t.port = s.port ∧ t.draws = s.draws

/-- R201 (and the second property of R161): an unrecognized type. The full read has been performed and CR0 staged, no
write is sent, the construction has failed with code 1 and the selector. No other command, and no recognized selector,
ends with code 1. -/
def Obligations.InitRejectsUnrecognizedTypes : Prop :=
  (∀ (i : Instr) (s t : State), exec i s = .next t → isCommand i = true → t.err = 1 →
    ∃ tsel cr0v cr1v cr0 cr1, i = .init tsel cr0v cr1v cr0 cr1 ∧ 9 < tsel.toNat) ∧
  ∀ (tsel : BitVec 4) (cr0v cr1v : Bool) (cr0 cr1 x : Byte) (first : List Byte) (rest : List Answer) (s : State),
    9 < tsel.toNat → first.length = 16 → Heard s (x :: first) rest →
      ∃ t, exec (.init tsel cr0v cr1v cr0 cr1) s = .next t ∧ t.err = 1 ∧
        t.resp = some { status := 1, rsp := 0#28 ++ tsel } ∧ t.life = .failed ∧ t.cs = .inactive ∧ t.busy = false ∧
        t.buscfg.configured = true ∧ t.hist = s.hist ++ [.r 0 16 first] ∧ t.answers = rest ∧
        t.mirror.read 0 = some (if cr0v then cr0 else 0x93#8) ∧
        ∀ a, 1 ≤ a → a < 16 → t.mirror.read a = first[a]?

/-- R201, R202, R205: which exceptions an instruction can meet. `InvalidThermocoupleType` comes only from `INIT` with a
selector above 9, `RangeError` only from a range that overruns, `NotConstructed` only from a command that needs
`life = READY`, and none of `MLD`, `MST` and the decoders without refresh meets a transport failure. -/
def Obligations.ExceptionsComeOnlyFromTheirCauses : Prop :=
  ∀ (i : Instr) (s t : State), exec i s = .next t → isCommand i = true →
    (t.err = 1 → ∃ tsel cr0v cr1v cr0 cr1, i = .init tsel cr0v cr1v cr0 cr1 ∧ 9 < tsel.toNat) ∧
    (t.err = 2 → transactions i ≠ 0) ∧
    (t.err = 3 → ∃ start count, (i = .rdr start count ∨ i = .wrr start count) ∧ 16 < start.toNat + count.toNat) ∧
    t.err ≠ 4 ∧ (t.err = 5 → needsReady i = true ∧ s.life ≠ .ready)

/-- R159 (with R212): a bus failure in step 3, 7 or 8 of `INIT`: code 2 with the failing transaction, `life = FAILED`,
chip-select inactive, the earlier transactions in the history, no later one. A failure in step 3 comes before the type
check, so it is reported for every selector, recognized or not. -/
def Obligations.InitFailsOnABrokenTransaction : Prop :=
  (∀ (tsel : BitVec 4) (cr0v cr1v : Bool) (cr0 cr1 : Byte) (rs : List Byte) (rest : List Answer) (s : State),
    rs.length ≤ 16 → HeardThenFails s rs rest →
      ∃ t, exec (.init tsel cr0v cr1v cr0 cr1) s = .next t ∧ t.err = 2 ∧
        t.resp = some { status := 2, rsp := BitVec.ofNat 32 rs.length } ∧ t.life = .failed ∧ t.cs = .inactive ∧
        t.busy = false ∧ t.hist = s.hist ++ [.f .rd 0 rs.length]) ∧
  ∀ (tsel : BitVec 4) (cr0v cr1v : Bool) (cr0 cr1 x : Byte) (first rs w : List Byte) (rest : List Answer)
    (code : BitVec 4) (s : State),
    [0x0#4, 0x1#4, 0x2#4, 0x3#4, 0x4#4, 0x5#4, 0x6#4, 0x7#4, 0x8#4, 0xC#4][tsel.toNat]? = some code →
    first.length = 16 → w.length = 4 →
    (rs.length ≤ 3 → HeardThenFails s ((x :: first) ++ rs) rest →
      ∃ t, exec (.init tsel cr0v cr1v cr0 cr1) s = .next t ∧ t.err = 2 ∧
        t.resp = some { status := 2, rsp := 0x10000#32 ||| BitVec.ofNat 32 rs.length } ∧ t.life = .failed ∧
        t.cs = .inactive ∧ t.busy = false ∧ t.hist = s.hist ++ [.r 0 16 first, .f .wr 0 rs.length]) ∧
    (rs.length ≤ 3 → HeardThenFails s ((x :: first) ++ w ++ rs) rest →
      ∃ t, exec (.init tsel cr0v cr1v cr0 cr1) s = .next t ∧ t.err = 2 ∧
        t.resp = some { status := 2, rsp := BitVec.ofNat 32 rs.length } ∧ t.life = .failed ∧ t.cs = .inactive ∧
        t.busy = false ∧ t.hist = s.hist ++
          [.r 0 16 first,
            .w 0 [if cr0v then cr0 else 0x93#8, ((if cr1v then cr1 else 0x40#8) &&& 0xF0#8) ||| (0#4 ++ code), 0x00#8],
            .f .rd 0 rs.length])

/-! ### One-shot -/

/-- R171 (with R172, R174): a completed `ONESHOT`. Autoconversion is cleared and one-shot set in the mirror's CR0, that
byte is pushed, the wait stands between the two transactions, and one read of the six data bytes follows. -/
def Obligations.OneShotTriggersAndReads : Prop :=
  ∀ (old x b0 b1 b2 b3 b4 b5 : Byte) (w : List Byte) (rest : List Answer) (s : State),
    s.life = .ready → s.mirror.read 0 = some old → w.length = 2 →
    Heard s (w ++ [x, b0, b1, b2, b3, b4, b5]) rest →
      ∃ t, exec .oneshot s = .next t ∧ t.mirror.read 0 = some ((old &&& 0x7F#8) ||| 0x40#8) ∧
        (∀ a, 1 ≤ a → a < 0x0A → t.mirror.read a = s.mirror.read a) ∧
        t.mirror.read 0x0A = some b0 ∧ t.mirror.read 0x0B = some b1 ∧ t.mirror.read 0x0C = some b2 ∧
        t.mirror.read 0x0D = some b3 ∧ t.mirror.read 0x0E = some b4 ∧ t.mirror.read 0x0F = some b5 ∧
        (∀ a, 16 ≤ a → t.mirror.read a = s.mirror.read a) ∧
        t.hist = s.hist ++ [.w 0 [(old &&& 0x7F#8) ||| 0x40#8], .r 0x0A 6 [b0, b1, b2, b3, b4, b5]] ∧
        t.wire = s.wire ++
          [.select, .sent 0x80#8, .sent ((old &&& 0x7F#8) ||| 0x40#8), .deselect, .wait Config.oneShotDelay,
            .select, .duplex 0x0A#8 x, .duplex 0x00#8 b0, .duplex 0x00#8 b1, .duplex 0x00#8 b2, .duplex 0x00#8 b3,
            .duplex 0x00#8 b4, .duplex 0x00#8 b5, .deselect] ∧
        t.err = 0 ∧ t.resp = some { status := 0, rsp := 0 } ∧ t.busy = false ∧ t.cs = .inactive ∧ t.delay = 0 ∧
        t.life = .ready ∧ t.buscfg = s.buscfg ∧ t.answers = rest ∧ t.port = s.port

/-- R104: `ONESHOT` is the staging of `mirror[0x00]`, `WRR 0x00, 1`, the delay and `RDD`: when those three commands
follow one another and the push completes, `ONESHOT` ends in the same state, but for the timer and the wire; and its wire
is theirs with one wait of `ONE_SHOT_DELAY` between the push and the read (R173; the wire is the model's own record, log
entry 5). -/
def Obligations.OneShotIsStagePushRefresh : Prop :=
  ∀ (old : Byte) (s s1 s2 s3 : State), s.life = .ready → s.mirror.read 0 = some old →
    exec (.mst 0 ((old &&& 0x7F#8) ||| 0x40#8)) s = .next s1 → exec (.wrr 0 1) s1 = .next s2 → s2.err = 0 →
    exec .rdd s2 = .next s3 →
      ∃ t read, exec .oneshot s = .next t ∧ s3.wire = s2.wire ++ read ∧
        t.wire = s2.wire ++ .wait Config.oneShotDelay :: read ∧ t.delay = 0 ∧
        { t with wire := s3.wire, delay := s3.delay } = s3

/-- R170, R211: `ONESHOT` whose push fails at byte `k`: the staged CR0 is kept, there is no wait and no read. -/
def Obligations.OneShotStopsAfterABrokenPush : Prop :=
  ∀ (old : Byte) (rs : List Byte) (rest : List Answer) (s : State),
    s.life = .ready → s.mirror.read 0 = some old → rs.length ≤ 1 → HeardThenFails s rs rest →
      ∃ t, exec .oneshot s = .next t ∧ t.err = 2 ∧
        t.resp = some { status := 2, rsp := 0x10000#32 ||| BitVec.ofNat 32 rs.length } ∧
        t.mirror.read 0 = some ((old &&& 0x7F#8) ||| 0x40#8) ∧
        (∀ a, 1 ≤ a → t.mirror.read a = s.mirror.read a) ∧ t.hist = s.hist ++ [.f .wr 0 rs.length] ∧
        t.wire = s.wire ++
          (.select :: ([0x80#8, (old &&& 0x7F#8) ||| 0x40#8].take rs.length).map .sent ++ [.broken, .deselect]) ∧
        t.cs = .inactive ∧ t.busy = false ∧ t.delay = s.delay ∧ t.life = .ready ∧ t.answers = rest

/-- R170, R126: `ONESHOT` whose closing read fails at byte `k` (program P5 of spec/95_test_vectors.md): the push stands
in the history, then the `F` event; the staged CR0 is kept, and outside 0x0A to 0x0F the mirror is otherwise as before. That
each byte of the failed read holds some byte is THE MODEL'S CHOICE of the two treatments R231 allows (log entry 3). -/
def Obligations.OneShotReportsABrokenRead : Prop :=
  ∀ (old : Byte) (w rs : List Byte) (rest : List Answer) (s : State),
    s.life = .ready → s.mirror.read 0 = some old → w.length = 2 → rs.length ≤ 6 → HeardThenFails s (w ++ rs) rest →
      ∃ t, exec .oneshot s = .next t ∧ t.err = 2 ∧
        t.resp = some { status := 2, rsp := 0xA00#32 ||| BitVec.ofNat 32 rs.length } ∧
        t.mirror.read 0 = some ((old &&& 0x7F#8) ||| 0x40#8) ∧
        (∀ a, 1 ≤ a → a < 0x0A ∨ 0x10 ≤ a → t.mirror.read a = s.mirror.read a) ∧
        (∀ a, 0x0A ≤ a → a < 0x10 → (t.mirror.read a).isSome = true) ∧
        t.hist = s.hist ++ [.w 0 [(old &&& 0x7F#8) ||| 0x40#8], .f .rd 0x0A rs.length] ∧
        t.cs = .inactive ∧ t.busy = false ∧ t.delay = 0 ∧ t.life = .ready ∧ t.answers = rest

/-! ### Failures of a transaction -/

/-- R126, R202, R210: `RDR` whose exchange with frame index `k` fails: code 2 with start and `k`, chip-select inactive,
the `F` event, every address outside the range as before, every address inside it holding some byte, `life` as before. That
each byte of the range holds some byte is THE MODEL'S CHOICE of the two treatments R231 allows (log entry 3). -/
def Obligations.RdrReportsABrokenRead : Prop :=
  ∀ (start : BitVec 4) (count : BitVec 5) (rs : List Byte) (rest : List Answer) (s : State),
    s.life = .ready → start.toNat + count.toNat ≤ 16 → rs.length ≤ count.toNat → HeardThenFails s rs rest →
      ∃ t, exec (.rdr start count) s = .next t ∧ t.err = 2 ∧
        t.resp = some { status := 2, rsp := 0#20 ++ start ++ 0#3 ++ BitVec.ofNat 5 rs.length } ∧ t.cs = .inactive ∧
        t.phase = .idle ∧ t.busy = false ∧ t.life = .ready ∧ t.hist = s.hist ++ [.f .rd start.toNat rs.length] ∧
        t.answers = rest ∧
        (∀ a, a < start.toNat ∨ start.toNat + count.toNat ≤ a → t.mirror.read a = s.mirror.read a) ∧
        ∀ a, start.toNat ≤ a → a < start.toNat + count.toNat → (t.mirror.read a).isSome = true

/-- R121, R202, R210: `WRR` whose exchange with frame index `k` fails: code 2 with bit 16 set, chip-select released
after the `k` bytes sent, the `F` event, the mirror as before. -/
def Obligations.WrrReportsABrokenWrite : Prop :=
  ∀ (start : BitVec 4) (count : BitVec 5) (payload rs : List Byte) (rest : List Answer) (s : State),
    s.life = .ready → start.toNat + count.toNat ≤ 16 → s.mirror.readRange start.toNat count.toNat = some payload →
    rs.length ≤ count.toNat → HeardThenFails s rs rest →
      ∃ t, exec (.wrr start count) s = .next t ∧ t.err = 2 ∧
        t.resp = some { status := 2, rsp := 1#16 ++ (0#4 ++ start ++ 0#3 ++ BitVec.ofNat 5 rs.length) } ∧
        t.cs = .inactive ∧ t.phase = .idle ∧ t.busy = false ∧ t.life = .ready ∧ t.mirror = s.mirror ∧
        t.hist = s.hist ++ [.f .wr start.toNat rs.length] ∧ t.answers = rest ∧
        t.wire = s.wire ++
          (.select :: (((0x80#8 ||| BitVec.ofNat 8 start.toNat) :: payload).take rs.length).map .sent ++
            [.broken, .deselect])

/-! ### The decoders -/

/-- R180, R181: `TEMP r=0` answers the four bytes 0x0C to 0x0F, the first the most significant; nothing else changes. -/
def Obligations.TempReturnsTheThermocoupleWord : Prop :=
  ∀ (b0 b1 b2 b3 : Byte) (s : State), s.life = .ready →
    s.mirror.read 0x0C = some b0 → s.mirror.read 0x0D = some b1 → s.mirror.read 0x0E = some b2 →
    s.mirror.read 0x0F = some b3 →
      exec (.temp false) s =
        .next { s with err := 0, resp := some { status := 0, rsp := b0 ++ b1 ++ b2 ++ b3 }, busy := false }

/-- R183, R184: `CJT r=0` answers the two bytes 0x0A and 0x0B, sign-extended to 32 bits; nothing else changes. -/
def Obligations.CjtReturnsTheColdJunctionWord : Prop :=
  ∀ (b0 b1 : Byte) (s : State), s.life = .ready → s.mirror.read 0x0A = some b0 → s.mirror.read 0x0B = some b1 →
    exec (.cjt false) s =
      .next { s with err := 0, resp := some { status := 0, rsp := (b0 ++ b1).signExtend 32 }, busy := false }

/-- R188, R206 (a): `FLT r=0` answers the status byte extended with zeros, with status 0 whatever it reports; nothing
else changes. -/
def Obligations.FltReturnsTheStatusByte : Prop :=
  ∀ (sr : Byte) (s : State), s.life = .ready → s.mirror.read 0x0F = some sr →
    exec (.flt false) s = .next { s with err := 0, resp := some { status := 0, rsp := 0#24 ++ sr }, busy := false }

/-- R193: with `r = 1` a decoder does what `RDD` does and then decodes the mirror; if the refresh raises, it raises the
same exception. With `r = 0` there is no bus activity and the history is unchanged. The decode reads the mirror only. -/
def Obligations.RefreshIsRddThenDecode : Prop :=
  (∀ s t : State, exec .rdd s = .next t → t.err = 0 →
    exec (.temp true) s = exec (.temp false) t ∧ exec (.cjt true) s = exec (.cjt false) t ∧
      exec (.flt true) s = exec (.flt false) t) ∧
  (∀ s t : State, exec .rdd s = .next t → t.err ≠ 0 →
    exec (.temp true) s = .next t ∧ exec (.cjt true) s = .next t ∧ exec (.flt true) s = .next t) ∧
  (∀ (i : Instr) (s t : State), i = .temp false ∨ i = .cjt false ∨ i = .flt false → exec i s = .next t →
    t.hist = s.hist ∧ t.answers = s.answers ∧ t.draws = s.draws ∧ t.mirror = s.mirror) ∧
  ∀ (i : Instr) (s s' t : State), i = .temp false ∨ i = .cjt false ∨ i = .flt false → s'.mirror = s.mirror →
    s'.life = s.life → exec i s = .next t → ∃ t', exec i s' = .next t' ∧ t'.resp = t.resp

/-- R131 with R180, R183, R188: with `r = 1` each decoder completes and answers from the bytes of one and the same read
transaction, which the mirror then holds. -/
def Obligations.RefreshedDecodersAnswerFromOneTransaction : Prop :=
  ∀ (x b0 b1 b2 b3 b4 b5 : Byte) (rest : List Answer) (s : State),
    s.life = .ready → Heard s [x, b0, b1, b2, b3, b4, b5] rest →
      ∃ t : State, t.mirror = s.mirror.writeRange 0x0A [b0, b1, b2, b3, b4, b5] ∧
        t.hist = s.hist ++ [.r 0x0A 6 [b0, b1, b2, b3, b4, b5]] ∧ t.err = 0 ∧ t.busy = false ∧ t.cs = .inactive ∧
        t.life = .ready ∧ t.answers = rest ∧ t.port = s.port ∧ t.buscfg = s.buscfg ∧
        exec (.temp true) s = .next { t with resp := some { status := 0, rsp := b2 ++ b3 ++ b4 ++ b5 } } ∧
        exec (.cjt true) s = .next { t with resp := some { status := 0, rsp := (b0 ++ b1).signExtend 32 } } ∧
        exec (.flt true) s = .next { t with resp := some { status := 0, rsp := 0#24 ++ b5 } }

/-- R186, R184: the decoders are independent: `TEMP` reads the mirror at 0x0C to 0x0F only, `CJT` at 0x0A and 0x0B only,
`FLT` at 0x0F only. -/
def Obligations.DecodersReadOnlyTheirOwnBytes : Prop :=
  ∀ (s s' t : State), s'.life = s.life →
    ((∀ a, 0x0C ≤ a → a ≤ 0x0F → s'.mirror.read a = s.mirror.read a) → exec (.temp false) s = .next t →
      ∃ t', exec (.temp false) s' = .next t' ∧ t'.resp = t.resp) ∧
    ((∀ a, 0x0A ≤ a → a ≤ 0x0B → s'.mirror.read a = s.mirror.read a) → exec (.cjt false) s = .next t →
      ∃ t', exec (.cjt false) s' = .next t' ∧ t'.resp = t.resp) ∧
    (s'.mirror.read 0x0F = s.mirror.read 0x0F → exec (.flt false) s = .next t →
      ∃ t', exec (.flt false) s' = .next t' ∧ t'.resp = t.resp)

/-- R182: the thermocouple value is the signed word over 2^20 exactly: distinct words have distinct values, and they run
from -2048 (0x80000000) to 2048 - 2^-20 (0x7FFFFFFF). The `TEMP` response is that word itself. -/
def Obligations.ThermocoupleScaleIsExact : Prop :=
  (∀ w : Word, (tempFixed w).value = (w.toInt : ℚ) / 1048576) ∧
  (∀ v w : Word, (tempFixed v).value = (tempFixed w).value → v = w) ∧
  (∀ w : Word, -2048 ≤ (tempFixed w).value ∧ (tempFixed w).value ≤ 2048 - 1 / 1048576) ∧
  (tempFixed 0x80000000#32).value = -2048 ∧ (tempFixed 0x7FFFFFFF#32).value = 2048 - 1 / 1048576 ∧
  (tempFixed 0x000186A0#32).value = 100000 / 1048576 ∧
  ∀ (b0 b1 b2 b3 : Byte) (s : State), s.life = .ready →
    s.mirror.read 0x0C = some b0 → s.mirror.read 0x0D = some b1 → s.mirror.read 0x0E = some b2 →
    s.mirror.read 0x0F = some b3 →
      ∃ t w, exec (.temp false) s = .next t ∧ t.resp = some { status := 0, rsp := w } ∧
        (tempFixed w).value = (((b0 ++ b1 ++ b2 ++ b3 : Word).toInt : ℤ) : ℚ) / 1048576

/-- R185: the cold-junction value is the signed 16-bit word over 256 exactly, from -128 to 127.99609375; 0x1900 is
25.0 and 0xF700 is -9.0. The `CJT` response is that number extended with its sign. -/
def Obligations.ColdJunctionScaleIsExact : Prop :=
  (∀ h l : Byte, (cjFixed (cjtResult h l)).value = (((h ++ l : BitVec 16).toInt : ℤ) : ℚ) / 256) ∧
  (∀ h l : Byte, -128 ≤ (cjFixed (cjtResult h l)).value ∧ (cjFixed (cjtResult h l)).value ≤ 12799609375 / 100000000) ∧
  (cjFixed (cjtResult 0x19#8 0x00#8)).value = 25 ∧ (cjFixed (cjtResult 0xF7#8 0x00#8)).value = -9 ∧
  ∀ (b0 b1 : Byte) (s : State), s.life = .ready → s.mirror.read 0x0A = some b0 → s.mirror.read 0x0B = some b1 →
    ∃ t w, exec (.cjt false) s = .next t ∧ t.resp = some { status := 0, rsp := w } ∧
      w.toInt = (b0 ++ b1 : BitVec 16).toInt ∧ (cjFixed w).value = (((b0 ++ b1 : BitVec 16).toInt : ℤ) : ℚ) / 256

/-- R186: both decoders are monotonic in the signed word. -/
def Obligations.DecodersAreMonotonic : Prop :=
  (∀ v w : Word, v.toInt < w.toInt → (tempFixed v).value < (tempFixed w).value) ∧
  ∀ h l h' l' : Byte, (h ++ l : BitVec 16).toInt < (h' ++ l' : BitVec 16).toInt →
    (cjFixed (cjtResult h l)).value < (cjFixed (cjtResult h' l')).value

/-- R187: every temperature fits 53 significand bits (those of binary64), and 24 bits (those of binary32) do not suffice for
0x7FFFFFFF. That exactness in a format is a condition on the significand alone, the exponent range left out, is THE MODEL'S
inference (log entry 20). -/
def Obligations.TemperaturesAreExactInBinary64 : Prop :=
  (∀ w : Word, (tempFixed w).exactWith 53) ∧ (∀ h l : Byte, (cjFixed (cjtResult h l)).exactWith 53) ∧
    ¬(tempFixed 0x7FFFFFFF#32).exactWith 24

/-- R192 (informative): how the device's own fields relate to the words decoded. -/
def Obligations.DeviceFieldsLieInsideTheWords : Prop :=
  (∀ w : Word, (lt19Fixed w).m = w.toInt / 8192 ∧
    (tempFixed w).value - (lt19Fixed w).value = ((w.extractLsb' 0 13).toNat : ℚ) / 1048576) ∧
  ∀ h l : Byte,
    (cjFixed (cjtResult h l)).value - (cj14Fixed (h ++ l)).value =
      (((h ++ l : BitVec 16).extractLsb' 0 2).toNat : ℚ) / 256

/-- R189: bit `b` of the `FLT` answer is fault flag `b`, all active conditions are reported and no other, and the mask
register plays no part. -/
def Obligations.FltReportsAllActiveFaults : Prop :=
  (∀ (sr : Byte) (f : SensorFault), (0#24 ++ sr : Word).getLsbD f.bit = faultFlag sr f ∧
    (f ∈ activeFaults sr ↔ sr.getLsbD f.bit = true)) ∧
  ∀ (sr mask : Byte) (s : State), s.life = .ready → s.mirror.read 0x0F = some sr →
    ∃ t, exec (.flt false) { s with mirror := s.mirror.write 0x02 mask } = .next t ∧
      t.resp = some { status := 0, rsp := 0#24 ++ sr }

/-- R190: the description is the names of the 1 bits in ascending order with the delimiter between; it is empty for no
fault, has one name for each 1 bit, lists a name exactly when its bit is 1, and tells the status byte apart, for every
delimiter that is non-empty and holds no letter. The laws (injectivity, the number of names, which are listed) are marked
in R190 as derived from it; which characters are letters is THE MODEL'S CHOICE, the ASCII ones (log entry 21). -/
def Obligations.FaultDescriptionTellsStatusBytesApart : Prop :=
  (∀ (d : String) (sr : Byte), describe d sr = d.intercalate
    (((["open", "ovuv", "tclow", "tchigh", "cjlow", "cjhigh", "tcrange", "cjrange"].zipIdx).filter
      fun p => sr.getLsbD p.2).map Prod.fst)) ∧
  (∀ d : String, describe d 0x00#8 = "") ∧
  (∀ d : String, describe d 0x11#8 = "open" ++ d ++ "cjlow") ∧
  (∀ sr : Byte, ((activeFaults sr).map SensorFault.bit).Pairwise (· < ·)) ∧
  (∀ sr : Byte, (activeFaults sr).length = ((List.range 8).filter fun b => sr.getLsbD b).length) ∧
  (∀ (sr : Byte) (f : SensorFault),
    f.name ∈ (activeFaults sr).map SensorFault.name ↔ sr.getLsbD f.bit = true) ∧
  ∀ (d : String) (sr sr' : Byte), DelimiterOk d → describe d sr = describe d sr' → sr = sr'

/-! ### Frames: what an instruction leaves unchanged -/

/-- R127: in every outcome, `WRR` and `RDR` leave every mirror byte outside `[start, start+count)` unchanged, and `WRR`
every mirror byte. -/
def Obligations.RangeTransfersAreConfined : Prop :=
  ∀ (start : BitVec 4) (count : BitVec 5) (s t : State),
    (exec (.rdr start count) s = .next t →
      ∀ a, a < start.toNat ∨ start.toNat + count.toNat ≤ a → t.mirror.read a = s.mirror.read a) ∧
    (exec (.wrr start count) s = .next t → ∀ a, t.mirror.read a = s.mirror.read a)

/-- R23, R21: in every outcome, a command changes no mirror byte but those the table of R23 lets it write; and a bare bus
frame changes none, which for a bare `BUS_READ` is THE MODEL'S CHOICE (log entry 4). -/
def Obligations.MirrorBytesHaveNoOtherWriter : Prop :=
  ∀ (i : Instr) (s t : State) (a : Nat), exec i s = .next t → mayWrite i a = false →
    t.mirror.read a = s.mirror.read a

/-- R27, R29, R40 (b), R137: the frame of all other state, in every outcome: only `INIT` writes `life` and `buscfg`,
only `ONESHOT` the timer, and an instruction with no transaction leaves the history and the sequencer alone. THE MODEL'S
CHOICE: that a bare frame leaves the mirror and `life` alone (log entry 4, with R122 and R125), and that what is still
presented at the port is untouched by all (the port list is log entry 7). -/
def Obligations.OtherStateHasNoOtherWriter : Prop :=
  ∀ (i : Instr) (s t : State), exec i s = .next t →
    t.port = s.port ∧ (isInit i = false → t.life = s.life ∧ t.buscfg = s.buscfg) ∧
      (i ≠ .oneshot → t.delay = s.delay) ∧
      (transactions i = 0 → t.hist = s.hist ∧ t.answers = s.answers ∧ t.draws = s.draws ∧ t.ptr = s.ptr ∧
        t.left = s.left ∧ t.dir = s.dir ∧ t.xbuf = s.xbuf) ∧
      (isCommand i = false → t.mirror = s.mirror)

/-- R27: the lifecycle and the status state. `life` is `UNINIT` after reset; `INIT` that completes sets `READY`, `INIT`
that raises sets `FAILED`, no other command changes `life`; `err` is the status code of the command, 0 when it completed;
`busy` is 1 from acceptance and 0 after the response, and while it is 1 no command is accepted. THE MODEL'S inference, in
the third clause: that a request presented while busy stays at the port and nothing changes, which concerns only states that
no run reaches (log entry 16; the port list is log entry 7). -/
def Obligations.LifecycleFollowsInit : Prop :=
  State.reset.life = .uninit ∧ (∀ s : State, (accept s).busy = true) ∧
  (∀ (s : State) (q : Request) (rest : List PortInput), s.port = .request q :: rest → s.busy = true → step s = .next s) ∧
  ∀ (i : Instr) (s t : State), exec i s = .next t → isCommand i = true →
    (isInit i = true → t.err = 0 → t.life = .ready) ∧ (isInit i = true → t.err ≠ 0 → t.life = .failed) ∧
      (isInit i = false → t.life = s.life) ∧ t.busy = false ∧ ∃ w, t.resp = some { status := t.err, rsp := w }

/-- R99: a command that completes answers 0, but for `TEMP`, `CJT`, `FLT` and `MLD`. -/
def Obligations.CommandsWithoutResultAnswerZero : Prop :=
  ∀ (i : Instr) (s t : State), exec i s = .next t → isCommand i = true → t.err = 0 →
    (∀ r, i ≠ .temp r) → (∀ r, i ≠ .cjt r) → (∀ r, i ≠ .flt r) → (∀ a, i ≠ .mld a) →
      t.resp = some { status := 0, rsp := 0 }

/-- R137: how many events an instruction appends when no exception occurs. -/
def Obligations.EventCountsOfCompletedCommands : Prop :=
  ∀ (i : Instr) (s t : State), exec i s = .next t → isCommand i = true → t.err = 0 →
    t.hist.length = s.hist.length + transactions i

/-! ### Whole-machine rules -/

/-- R28: the history is append-only and no instruction reads it: with any other history before, the outcome is the same
with the same events appended. -/
def Obligations.HistoryIsAppendedToAndNeverRead : Prop :=
  ∀ (i : Instr) (s t : State), exec i s = .next t →
    ∃ es, t.hist = s.hist ++ es ∧
      ∀ h : List BusEvent, exec i { s with hist := h } = .next { t with hist := h ++ es }

/-- R25: what the sequencer's fields hold between commands has no effect on a command, but on those fields. -/
def Obligations.SequencerLeftoversAreNeverRead : Prop :=
  ∀ (i : Instr) (s t : State) (ptr left : BitVec 5) (dir : Dir) (xbuf : List Byte), exec i s = .next t →
    ∃ ptr' left' dir' xbuf',
      exec i { s with ptr := ptr, left := left, dir := dir, xbuf := xbuf } =
        .next { t with ptr := ptr', left := left', dir := dir', xbuf := xbuf' }

/-- The reset state meets the invariant (R42). -/
def Obligations.ResetMeetsTheInvariant : Prop := Inv State.reset

/-- Every step keeps the invariant: chip-select inactive and the sequencer idle between commands (R24, R25, R120, R233),
the mirror canonical, and complete whenever `life = READY` (R231, R160), `err` the status of the last response (R27). -/
def Obligations.StepKeepsTheInvariant : Prop :=
  ∀ s t : State, Inv s → step s = .next t → Inv t

/-- R231 ("In the hardware as specified this cannot be reached"): from a state that meets the invariant, a step never
faults; it answers a next state, but for bytes presented as a frame that form none, whose refusal is THE MODEL'S CHOICE
(log entry 15). -/
def Obligations.StepNeverFaultsUnderTheInvariant : Prop :=
  ∀ s : State, Inv s →
    (∃ t, step s = .next t) ∨
      ∃ bytes rest e, s.port = .request (.frame bytes) :: rest ∧ decodeFrame bytes = .error e ∧
        step s = .refused (.malformedFrame e)

/-- R28, R72, R91 to R93, R120, R121, R125: the wire shows exactly the transactions of the history, whole and in order;
every step keeps that. -/
def Obligations.StepKeepsHistoryAndWireInAgreement : Prop :=
  ∀ s t : State, Inv s → Agrees s.hist s.wire → step s = .next t → Agrees t.hist t.wire

/-- R120: where history and wire agree, no byte is exchanged while chip-select is inactive, and no transaction is left
open. -/
def Obligations.ChipSelectBracketsEveryByte : Prop :=
  ∀ (hist : List BusEvent) (wire : List WireEvent), Agrees hist wire → bracketedFrom false wire = true

/-- R91, R102: where history and wire agree, bits 6:4 of the first byte of every frame are 0, there is one frame for
each event, and bit 7 of that byte is 1 exactly for a write. -/
def Obligations.AddressBytesNameTheRegisters : Prop :=
  ∀ (hist : List BusEvent) (wire : List WireEvent), Agrees hist wire →
    (framesOf wire).length = hist.length ∧
    ∀ (n : Nat) (f : FrameBytes) (b : Byte), (framesOf wire)[n]? = some f → f.sent.head? = some b →
      b.extractLsb' 4 3 = 0 ∧
        (b.getLsbD 7 = true ↔ ∃ e, hist[n]? = some e ∧ ((∃ a ds, e = .w a ds) ∨ ∃ a k, e = .f .wr a k))

/-- R222: where history and wire agree, the trace port has presented one record for each event: its kind, start address
and byte count, and the bytes sent and received. -/
def Obligations.TracePortShowsEachTransaction : Prop :=
  ∀ s : State, Agrees s.hist s.wire →
    (tracePort s).length = s.hist.length ∧
    ∀ (n : Nat) (e : BusEvent) (shown : TraceRecord), s.hist[n]? = some e → (tracePort s)[n]? = some shown →
      (∀ a ds, e = .w a ds → shown =
        { kind := .w, start := a, count := ds.length
          bytes := { sent := (0x80#8 ||| BitVec.ofNat 8 a) :: ds, received := [] } }) ∧
      (∀ a k bytes, e = .r a k bytes → ∃ x, shown =
        { kind := .r, start := a, count := k
          bytes := { sent := BitVec.ofNat 8 a :: List.replicate k 0x00#8, received := x :: bytes } }) ∧
      ∀ d a k, e = .f d a k → shown.kind = .f ∧ shown.start = a ∧ shown.count = k ∧ shown.bytes.sent.length = k
end

