-- ==== Sys2Proof/Laws/Memory.lean ====
section
/-! SUPPORT. The mirror as memory: read after write, the range operations, and the canonical form that every operation
keeps. -/

namespace Sys2Proof.Machine

@[simp] theorem Memory.read_nil (a : Nat) : Memory.read [] a = none := rfl

theorem Memory.read_write_same (m : Memory) (a : Nat) (b : Byte) : (m.write a b).read a = some b := by
  induction m with
  | nil => simp [Memory.write, Memory.read]
  | cons c rest ih =>
    obtain ⟨k, v⟩ := c
    simp only [Memory.write]
    split
    · simp [Memory.read]
    · split
      · simp [Memory.read]
      · rename_i _ h
        simp [Memory.read, h, ih]

theorem Memory.read_write_other (m : Memory) {a a' : Nat} (b : Byte) (h : a' ≠ a) :
    (m.write a b).read a' = m.read a' := by
  induction m with
  | nil => simp [Memory.write, Memory.read, h]
  | cons c rest ih =>
    obtain ⟨k, v⟩ := c
    simp only [Memory.write]
    split
    · simp [Memory.read, h]
    · split
      · rename_i _ hk
        subst hk
        simp [Memory.read, h]
      · simp [Memory.read, ih]

/-- Reading one byte after writing one. -/
theorem Memory.read_write (m : Memory) (a a' : Nat) (b : Byte) :
    (m.write a b).read a' = if a' = a then some b else m.read a' := by
  split
  · rename_i h
    rw [h, Memory.read_write_same]
  · rename_i h
    exact Memory.read_write_other m b h

/-- Reading one byte after writing a range. -/
theorem Memory.read_writeRange (bytes : List Byte) (m : Memory) (start a : Nat) :
    (m.writeRange start bytes).read a =
      if start ≤ a ∧ a < start + bytes.length then bytes[a - start]? else m.read a := by
  induction bytes generalizing m start with
  | nil =>
    simp [Memory.writeRange]
  | cons b rest ih =>
    simp only [Memory.writeRange, ih, Memory.read_write, List.length_cons]
    by_cases h0 : a = start
    · subst h0
      simp
    · by_cases h1 : start + 1 ≤ a ∧ a < start + 1 + rest.length
      · have h2 : start ≤ a ∧ a < start + (rest.length + 1) := by omega
        have h3 : a - start = (a - (start + 1)) + 1 := by omega
        simp [h1, h2, h3]
      · have h2 : ¬(start ≤ a ∧ a < start + (rest.length + 1)) := by omega
        rw [if_neg h1, if_neg h0, if_neg h2]

/-- A write outside the address leaves the byte; a range write leaves every byte outside the range. -/
theorem Memory.read_writeRange_outside (m : Memory) {start a : Nat} (bytes : List Byte)
    (h : a < start ∨ start + bytes.length ≤ a) : (m.writeRange start bytes).read a = m.read a := by
  have : ¬(start ≤ a ∧ a < start + bytes.length) := by omega
  simp [Memory.read_writeRange, this]

/-- A written byte has a value, and no byte loses one. -/
theorem Memory.isSome_read_writeRange {m : Memory} {start a : Nat} {bytes : List Byte}
    (h : (start ≤ a ∧ a < start + bytes.length) ∨ (m.read a).isSome = true) :
    ((m.writeRange start bytes).read a).isSome = true := by
  rw [Memory.read_writeRange]
  split
  · rename_i hr
    have : a - start < bytes.length := by omega
    simp [this]
  · rename_i hr
    exact h.resolve_left hr

theorem Memory.isSome_read_write {m : Memory} {a a' : Nat} {b : Byte}
    (h : a' = a ∨ (m.read a').isSome = true) : ((m.write a b).read a').isSome = true := by
  rw [Memory.read_write]
  split
  · rfl
  · rename_i hne
    exact h.resolve_left hne

theorem Memory.mem_write {m : Memory} {a : Nat} {b : Byte} {c : Host.Cell} (h : c ∈ m.write a b) :
    c = (a, b) ∨ c ∈ m := by
  induction m with
  | nil => simpa [Memory.write] using h
  | cons d rest ih =>
    obtain ⟨k, v⟩ := d
    simp only [Memory.write] at h
    split at h
    · simpa using h
    · split at h
      · rcases List.mem_cons.mp h with h | h
        · exact .inl h
        · exact .inr (List.mem_cons_of_mem _ h)
      · rcases List.mem_cons.mp h with h | h
        · exact .inr (h ▸ List.mem_cons_self)
        · exact (ih h).imp id (List.mem_cons_of_mem _)

theorem Memory.pairwise_write {m : Memory} (a : Nat) (b : Byte)
    (h : m.Pairwise (fun c d => c.1 < d.1)) : (m.write a b).Pairwise (fun c d => c.1 < d.1) := by
  induction m with
  | nil => simp [Memory.write]
  | cons c rest ih =>
    obtain ⟨k, v⟩ := c
    obtain ⟨hk, hrest⟩ := List.pairwise_cons.mp h
    simp only [Memory.write]
    split
    · rename_i hlt
      refine List.pairwise_cons.mpr ⟨fun d hd => ?_, h⟩
      rcases List.mem_cons.mp hd with rfl | hd
      · exact hlt
      · exact Nat.lt_trans hlt (hk d hd)
    · split
      · rename_i _ heq
        subst heq
        exact List.pairwise_cons.mpr ⟨hk, hrest⟩
      · rename_i hlt hne
        refine List.pairwise_cons.mpr ⟨fun d hd => ?_, ih hrest⟩
        rcases Memory.mem_write hd with rfl | hd
        · simp only at *
          omega
        · exact hk d hd

/-- A write inside the register file keeps the canonical form. -/
theorem Memory.wf_write {m : Memory} {a : Nat} (b : Byte) (ha : a < Params.nreg) (h : m.wf) : (m.write a b).wf := by
  refine ⟨Memory.pairwise_write a b h.1, fun c hc => ?_⟩
  rcases Memory.mem_write hc with rfl | hc
  · exact ha
  · exact h.2 c hc

/-- A range write inside the register file keeps the canonical form. -/
theorem Memory.wf_writeRange {bytes : List Byte} {m : Memory} {start : Nat}
    (hr : start + bytes.length ≤ Params.nreg) (h : m.wf) : (m.writeRange start bytes).wf := by
  induction bytes generalizing m start with
  | nil => exact h
  | cons b rest ih =>
    simp only [List.length_cons] at hr
    exact ih (by omega) (Memory.wf_write b (by omega) h)

theorem Memory.wf_nil : Memory.wf [] := ⟨List.Pairwise.nil, by simp⟩

/-- Reading a range gives as many bytes as asked. -/
theorem Memory.length_of_readRange {m : Memory} {n start : Nat} {bytes : List Byte}
    (h : m.readRange start n = some bytes) : bytes.length = n := by
  induction n generalizing start bytes with
  | zero =>
    simp only [Memory.readRange, Option.some.injEq] at h
    simp [← h]
  | succ n ih =>
    simp only [Memory.readRange] at h
    split at h
    · rename_i b rest hb hrest
      simp only [Option.some.injEq] at h
      simp [← h, ih hrest]
    · cases h

/-- A range of bytes that all have a value can be read. -/
theorem Memory.readRange_isSome {m : Memory} {n start : Nat}
    (h : ∀ a, start ≤ a → a < start + n → (m.read a).isSome = true) : (m.readRange start n).isSome = true := by
  induction n generalizing start with
  | zero => rfl
  | succ n ih =>
    obtain ⟨b, hb⟩ := Option.isSome_iff_exists.mp (h start (Nat.le_refl _) (by omega))
    obtain ⟨rest, hrest⟩ := Option.isSome_iff_exists.mp (ih (start := start + 1) fun a h1 h2 => h a (by omega) (by omega))
    simp [Memory.readRange, hb, hrest]

/-- Reading a range gives byte `i` of it where one reads address `start + i`. -/
theorem Memory.getElem_of_readRange {m : Memory} {n start : Nat} {bytes : List Byte}
    (h : m.readRange start n = some bytes) {i : Nat} (hi : i < n) : bytes[i]? = m.read (start + i) := by
  induction n generalizing start bytes i with
  | zero => omega
  | succ n ih =>
    simp only [Memory.readRange] at h
    split at h
    · rename_i b rest hb hrest
      simp only [Option.some.injEq] at h
      subst h
      cases i with
      | zero => simp [hb]
      | succ i =>
        have := ih hrest (i := i) (by omega)
        simpa [Nat.add_assoc, Nat.add_comm 1 i] using this
    · cases h

end Sys2Proof.Machine
end

