-- ==== Sys2Proof/Laws/State.lean ====
section
/-! SUPPORT. What each update of the state does to each field: one lemma per field and update, so that no later proof
unfolds a record update. -/

namespace Sys2Proof.Machine

/-! ### `stage` -/

@[simp] theorem stage_mirror (a : Nat) (b : Byte) (s : State) : (stage a b s).mirror = s.mirror.write a b := rfl
@[simp] theorem stage_cs (a : Nat) (b : Byte) (s : State) : (stage a b s).cs = s.cs := rfl
@[simp] theorem stage_phase (a : Nat) (b : Byte) (s : State) : (stage a b s).phase = s.phase := rfl
@[simp] theorem stage_ptr (a : Nat) (b : Byte) (s : State) : (stage a b s).ptr = s.ptr := rfl
@[simp] theorem stage_left (a : Nat) (b : Byte) (s : State) : (stage a b s).left = s.left := rfl
@[simp] theorem stage_dir (a : Nat) (b : Byte) (s : State) : (stage a b s).dir = s.dir := rfl
@[simp] theorem stage_xbuf (a : Nat) (b : Byte) (s : State) : (stage a b s).xbuf = s.xbuf := rfl
@[simp] theorem stage_delay (a : Nat) (b : Byte) (s : State) : (stage a b s).delay = s.delay := rfl
@[simp] theorem stage_life (a : Nat) (b : Byte) (s : State) : (stage a b s).life = s.life := rfl
@[simp] theorem stage_err (a : Nat) (b : Byte) (s : State) : (stage a b s).err = s.err := rfl
@[simp] theorem stage_busy (a : Nat) (b : Byte) (s : State) : (stage a b s).busy = s.busy := rfl
@[simp] theorem stage_buscfg (a : Nat) (b : Byte) (s : State) : (stage a b s).buscfg = s.buscfg := rfl
@[simp] theorem stage_hist (a : Nat) (b : Byte) (s : State) : (stage a b s).hist = s.hist := rfl
@[simp] theorem stage_resp (a : Nat) (b : Byte) (s : State) : (stage a b s).resp = s.resp := rfl
@[simp] theorem stage_port (a : Nat) (b : Byte) (s : State) : (stage a b s).port = s.port := rfl
@[simp] theorem stage_answers (a : Nat) (b : Byte) (s : State) : (stage a b s).answers = s.answers := rfl
@[simp] theorem stage_draws (a : Nat) (b : Byte) (s : State) : (stage a b s).draws = s.draws := rfl
@[simp] theorem stage_wire (a : Nat) (b : Byte) (s : State) : (stage a b s).wire = s.wire := rfl

/-! ### `accept` -/

@[simp] theorem accept_mirror (s : State) : (accept s).mirror = s.mirror := rfl
@[simp] theorem accept_cs (s : State) : (accept s).cs = s.cs := rfl
@[simp] theorem accept_phase (s : State) : (accept s).phase = s.phase := rfl
@[simp] theorem accept_ptr (s : State) : (accept s).ptr = s.ptr := rfl
@[simp] theorem accept_left (s : State) : (accept s).left = s.left := rfl
@[simp] theorem accept_dir (s : State) : (accept s).dir = s.dir := rfl
@[simp] theorem accept_xbuf (s : State) : (accept s).xbuf = s.xbuf := rfl
@[simp] theorem accept_delay (s : State) : (accept s).delay = s.delay := rfl
@[simp] theorem accept_life (s : State) : (accept s).life = s.life := rfl
@[simp] theorem accept_err (s : State) : (accept s).err = s.err := rfl
@[simp] theorem accept_busy (s : State) : (accept s).busy = true := rfl
@[simp] theorem accept_buscfg (s : State) : (accept s).buscfg = s.buscfg := rfl
@[simp] theorem accept_hist (s : State) : (accept s).hist = s.hist := rfl
@[simp] theorem accept_resp (s : State) : (accept s).resp = s.resp := rfl
@[simp] theorem accept_port (s : State) : (accept s).port = s.port := rfl
@[simp] theorem accept_answers (s : State) : (accept s).answers = s.answers := rfl
@[simp] theorem accept_draws (s : State) : (accept s).draws = s.draws := rfl
@[simp] theorem accept_wire (s : State) : (accept s).wire = s.wire := rfl

/-! ### `respond` -/

@[simp] theorem respond_mirror (rsp : Word) (s : State) : (respond rsp s).mirror = s.mirror := rfl
@[simp] theorem respond_cs (rsp : Word) (s : State) : (respond rsp s).cs = s.cs := rfl
@[simp] theorem respond_phase (rsp : Word) (s : State) : (respond rsp s).phase = s.phase := rfl
@[simp] theorem respond_ptr (rsp : Word) (s : State) : (respond rsp s).ptr = s.ptr := rfl
@[simp] theorem respond_left (rsp : Word) (s : State) : (respond rsp s).left = s.left := rfl
@[simp] theorem respond_dir (rsp : Word) (s : State) : (respond rsp s).dir = s.dir := rfl
@[simp] theorem respond_xbuf (rsp : Word) (s : State) : (respond rsp s).xbuf = s.xbuf := rfl
@[simp] theorem respond_delay (rsp : Word) (s : State) : (respond rsp s).delay = s.delay := rfl
@[simp] theorem respond_life (rsp : Word) (s : State) : (respond rsp s).life = s.life := rfl
@[simp] theorem respond_err (rsp : Word) (s : State) : (respond rsp s).err = 0 := rfl
@[simp] theorem respond_busy (rsp : Word) (s : State) : (respond rsp s).busy = false := rfl
@[simp] theorem respond_buscfg (rsp : Word) (s : State) : (respond rsp s).buscfg = s.buscfg := rfl
@[simp] theorem respond_hist (rsp : Word) (s : State) : (respond rsp s).hist = s.hist := rfl
@[simp] theorem respond_resp (rsp : Word) (s : State) : (respond rsp s).resp = some { status := 0, rsp := rsp } := rfl
@[simp] theorem respond_port (rsp : Word) (s : State) : (respond rsp s).port = s.port := rfl
@[simp] theorem respond_answers (rsp : Word) (s : State) : (respond rsp s).answers = s.answers := rfl
@[simp] theorem respond_draws (rsp : Word) (s : State) : (respond rsp s).draws = s.draws := rfl
@[simp] theorem respond_wire (rsp : Word) (s : State) : (respond rsp s).wire = s.wire := rfl

/-! ### `release` -/

@[simp] theorem release_mirror (s : State) : (release s).mirror = s.mirror := rfl
@[simp] theorem release_cs (s : State) : (release s).cs = s.cs := rfl
@[simp] theorem release_phase (s : State) : (release s).phase = s.phase := rfl
@[simp] theorem release_ptr (s : State) : (release s).ptr = s.ptr := rfl
@[simp] theorem release_left (s : State) : (release s).left = s.left := rfl
@[simp] theorem release_dir (s : State) : (release s).dir = s.dir := rfl
@[simp] theorem release_xbuf (s : State) : (release s).xbuf = s.xbuf := rfl
@[simp] theorem release_delay (s : State) : (release s).delay = s.delay := rfl
@[simp] theorem release_life (s : State) : (release s).life = s.life := rfl
@[simp] theorem release_err (s : State) : (release s).err = s.err := rfl
@[simp] theorem release_busy (s : State) : (release s).busy = false := rfl
@[simp] theorem release_buscfg (s : State) : (release s).buscfg = s.buscfg := rfl
@[simp] theorem release_hist (s : State) : (release s).hist = s.hist := rfl
@[simp] theorem release_resp (s : State) : (release s).resp = s.resp := rfl
@[simp] theorem release_port (s : State) : (release s).port = s.port := rfl
@[simp] theorem release_answers (s : State) : (release s).answers = s.answers := rfl
@[simp] theorem release_draws (s : State) : (release s).draws = s.draws := rfl
@[simp] theorem release_wire (s : State) : (release s).wire = s.wire := rfl

/-! ### `raise` -/

@[simp] theorem raise_mirror (b : Bool) (c : Cause) (s : State) : (raise b c s).mirror = s.mirror := rfl
@[simp] theorem raise_cs (b : Bool) (c : Cause) (s : State) : (raise b c s).cs = .inactive := rfl
@[simp] theorem raise_phase (b : Bool) (c : Cause) (s : State) : (raise b c s).phase = .idle := rfl
@[simp] theorem raise_ptr (b : Bool) (c : Cause) (s : State) : (raise b c s).ptr = s.ptr := rfl
@[simp] theorem raise_left (b : Bool) (c : Cause) (s : State) : (raise b c s).left = s.left := rfl
@[simp] theorem raise_dir (b : Bool) (c : Cause) (s : State) : (raise b c s).dir = s.dir := rfl
@[simp] theorem raise_xbuf (b : Bool) (c : Cause) (s : State) : (raise b c s).xbuf = s.xbuf := rfl
@[simp] theorem raise_delay (b : Bool) (c : Cause) (s : State) : (raise b c s).delay = s.delay := rfl
@[simp] theorem raise_life (b : Bool) (c : Cause) (s : State) : (raise b c s).life = (if b && c.endsConstruction then .failed else s.life) := rfl
@[simp] theorem raise_err (b : Bool) (c : Cause) (s : State) : (raise b c s).err = c.code := rfl
@[simp] theorem raise_busy (b : Bool) (c : Cause) (s : State) : (raise b c s).busy = false := rfl
@[simp] theorem raise_buscfg (b : Bool) (c : Cause) (s : State) : (raise b c s).buscfg = s.buscfg := rfl
@[simp] theorem raise_hist (b : Bool) (c : Cause) (s : State) : (raise b c s).hist = s.hist ++ c.failureEvents := rfl
@[simp] theorem raise_resp (b : Bool) (c : Cause) (s : State) : (raise b c s).resp = some { status := c.code, rsp := c.info } := rfl
@[simp] theorem raise_port (b : Bool) (c : Cause) (s : State) : (raise b c s).port = s.port := rfl
@[simp] theorem raise_answers (b : Bool) (c : Cause) (s : State) : (raise b c s).answers = s.answers := rfl
@[simp] theorem raise_draws (b : Bool) (c : Cause) (s : State) : (raise b c s).draws = s.draws := rfl
@[simp] theorem raise_wire (b : Bool) (c : Cause) (s : State) : (raise b c s).wire = s.wire ++ (if s.cs = .active then [.deselect] else []) := rfl

/-! ### `startTransaction` -/

@[simp] theorem startTransaction_mirror (d : Dir) (a n : Nat) (q : List Byte) (s : State) : (startTransaction d a n q s).mirror = s.mirror := rfl
@[simp] theorem startTransaction_cs (d : Dir) (a n : Nat) (q : List Byte) (s : State) : (startTransaction d a n q s).cs = .active := rfl
@[simp] theorem startTransaction_phase (d : Dir) (a n : Nat) (q : List Byte) (s : State) : (startTransaction d a n q s).phase = .addr := rfl
@[simp] theorem startTransaction_ptr (d : Dir) (a n : Nat) (q : List Byte) (s : State) : (startTransaction d a n q s).ptr = BitVec.ofNat 5 a := rfl
@[simp] theorem startTransaction_left (d : Dir) (a n : Nat) (q : List Byte) (s : State) : (startTransaction d a n q s).left = BitVec.ofNat 5 n := rfl
@[simp] theorem startTransaction_dir (d : Dir) (a n : Nat) (q : List Byte) (s : State) : (startTransaction d a n q s).dir = d := rfl
@[simp] theorem startTransaction_xbuf (d : Dir) (a n : Nat) (q : List Byte) (s : State) : (startTransaction d a n q s).xbuf = q ++ s.xbuf.drop q.length := rfl
@[simp] theorem startTransaction_delay (d : Dir) (a n : Nat) (q : List Byte) (s : State) : (startTransaction d a n q s).delay = s.delay := rfl
@[simp] theorem startTransaction_life (d : Dir) (a n : Nat) (q : List Byte) (s : State) : (startTransaction d a n q s).life = s.life := rfl
@[simp] theorem startTransaction_err (d : Dir) (a n : Nat) (q : List Byte) (s : State) : (startTransaction d a n q s).err = s.err := rfl
@[simp] theorem startTransaction_busy (d : Dir) (a n : Nat) (q : List Byte) (s : State) : (startTransaction d a n q s).busy = s.busy := rfl
@[simp] theorem startTransaction_buscfg (d : Dir) (a n : Nat) (q : List Byte) (s : State) : (startTransaction d a n q s).buscfg = s.buscfg := rfl
@[simp] theorem startTransaction_hist (d : Dir) (a n : Nat) (q : List Byte) (s : State) : (startTransaction d a n q s).hist = s.hist := rfl
@[simp] theorem startTransaction_resp (d : Dir) (a n : Nat) (q : List Byte) (s : State) : (startTransaction d a n q s).resp = s.resp := rfl
@[simp] theorem startTransaction_port (d : Dir) (a n : Nat) (q : List Byte) (s : State) : (startTransaction d a n q s).port = s.port := rfl
@[simp] theorem startTransaction_answers (d : Dir) (a n : Nat) (q : List Byte) (s : State) : (startTransaction d a n q s).answers = s.answers := rfl
@[simp] theorem startTransaction_draws (d : Dir) (a n : Nat) (q : List Byte) (s : State) : (startTransaction d a n q s).draws = s.draws := rfl
@[simp] theorem startTransaction_wire (d : Dir) (a n : Nat) (q : List Byte) (s : State) : (startTransaction d a n q s).wire = s.wire ++ [.select] := rfl

/-! ### `endTransaction` -/

@[simp] theorem endTransaction_mirror (e : BusEvent) (s : State) : (endTransaction e s).mirror = s.mirror := rfl
@[simp] theorem endTransaction_cs (e : BusEvent) (s : State) : (endTransaction e s).cs = .inactive := rfl
@[simp] theorem endTransaction_phase (e : BusEvent) (s : State) : (endTransaction e s).phase = .idle := rfl
@[simp] theorem endTransaction_ptr (e : BusEvent) (s : State) : (endTransaction e s).ptr = s.ptr := rfl
@[simp] theorem endTransaction_left (e : BusEvent) (s : State) : (endTransaction e s).left = s.left := rfl
@[simp] theorem endTransaction_dir (e : BusEvent) (s : State) : (endTransaction e s).dir = s.dir := rfl
@[simp] theorem endTransaction_xbuf (e : BusEvent) (s : State) : (endTransaction e s).xbuf = s.xbuf := rfl
@[simp] theorem endTransaction_delay (e : BusEvent) (s : State) : (endTransaction e s).delay = s.delay := rfl
@[simp] theorem endTransaction_life (e : BusEvent) (s : State) : (endTransaction e s).life = s.life := rfl
@[simp] theorem endTransaction_err (e : BusEvent) (s : State) : (endTransaction e s).err = s.err := rfl
@[simp] theorem endTransaction_busy (e : BusEvent) (s : State) : (endTransaction e s).busy = s.busy := rfl
@[simp] theorem endTransaction_buscfg (e : BusEvent) (s : State) : (endTransaction e s).buscfg = s.buscfg := rfl
@[simp] theorem endTransaction_hist (e : BusEvent) (s : State) : (endTransaction e s).hist = s.hist ++ [e] := rfl
@[simp] theorem endTransaction_resp (e : BusEvent) (s : State) : (endTransaction e s).resp = s.resp := rfl
@[simp] theorem endTransaction_port (e : BusEvent) (s : State) : (endTransaction e s).port = s.port := rfl
@[simp] theorem endTransaction_answers (e : BusEvent) (s : State) : (endTransaction e s).answers = s.answers := rfl
@[simp] theorem endTransaction_draws (e : BusEvent) (s : State) : (endTransaction e s).draws = s.draws := rfl
@[simp] theorem endTransaction_wire (e : BusEvent) (s : State) : (endTransaction e s).wire = s.wire ++ [.deselect] := rfl

/-! ### `tear` -/

@[simp] theorem tear_mirror (a n : Nat) (s : State) : (tear a n s).mirror = s.mirror.writeRange a ((List.range n).map fun i => Config.tornByte (s.draws + i)) := rfl
@[simp] theorem tear_cs (a n : Nat) (s : State) : (tear a n s).cs = s.cs := rfl
@[simp] theorem tear_phase (a n : Nat) (s : State) : (tear a n s).phase = s.phase := rfl
@[simp] theorem tear_ptr (a n : Nat) (s : State) : (tear a n s).ptr = s.ptr := rfl
@[simp] theorem tear_left (a n : Nat) (s : State) : (tear a n s).left = s.left := rfl
@[simp] theorem tear_dir (a n : Nat) (s : State) : (tear a n s).dir = s.dir := rfl
@[simp] theorem tear_xbuf (a n : Nat) (s : State) : (tear a n s).xbuf = s.xbuf := rfl
@[simp] theorem tear_delay (a n : Nat) (s : State) : (tear a n s).delay = s.delay := rfl
@[simp] theorem tear_life (a n : Nat) (s : State) : (tear a n s).life = s.life := rfl
@[simp] theorem tear_err (a n : Nat) (s : State) : (tear a n s).err = s.err := rfl
@[simp] theorem tear_busy (a n : Nat) (s : State) : (tear a n s).busy = s.busy := rfl
@[simp] theorem tear_buscfg (a n : Nat) (s : State) : (tear a n s).buscfg = s.buscfg := rfl
@[simp] theorem tear_hist (a n : Nat) (s : State) : (tear a n s).hist = s.hist := rfl
@[simp] theorem tear_resp (a n : Nat) (s : State) : (tear a n s).resp = s.resp := rfl
@[simp] theorem tear_port (a n : Nat) (s : State) : (tear a n s).port = s.port := rfl
@[simp] theorem tear_answers (a n : Nat) (s : State) : (tear a n s).answers = s.answers := rfl
@[simp] theorem tear_draws (a n : Nat) (s : State) : (tear a n s).draws = s.draws + n := rfl
@[simp] theorem tear_wire (a n : Nat) (s : State) : (tear a n s).wire = s.wire := rfl

/-! ### `initRelease` -/

@[simp] theorem initRelease_mirror (s : State) : (initRelease s).mirror = s.mirror := rfl
@[simp] theorem initRelease_cs (s : State) : (initRelease s).cs = .inactive := rfl
@[simp] theorem initRelease_phase (s : State) : (initRelease s).phase = s.phase := rfl
@[simp] theorem initRelease_ptr (s : State) : (initRelease s).ptr = s.ptr := rfl
@[simp] theorem initRelease_left (s : State) : (initRelease s).left = s.left := rfl
@[simp] theorem initRelease_dir (s : State) : (initRelease s).dir = s.dir := rfl
@[simp] theorem initRelease_xbuf (s : State) : (initRelease s).xbuf = s.xbuf := rfl
@[simp] theorem initRelease_delay (s : State) : (initRelease s).delay = s.delay := rfl
@[simp] theorem initRelease_life (s : State) : (initRelease s).life = s.life := rfl
@[simp] theorem initRelease_err (s : State) : (initRelease s).err = s.err := rfl
@[simp] theorem initRelease_busy (s : State) : (initRelease s).busy = s.busy := rfl
@[simp] theorem initRelease_buscfg (s : State) : (initRelease s).buscfg = s.buscfg := rfl
@[simp] theorem initRelease_hist (s : State) : (initRelease s).hist = s.hist := rfl
@[simp] theorem initRelease_resp (s : State) : (initRelease s).resp = s.resp := rfl
@[simp] theorem initRelease_port (s : State) : (initRelease s).port = s.port := rfl
@[simp] theorem initRelease_answers (s : State) : (initRelease s).answers = s.answers := rfl
@[simp] theorem initRelease_draws (s : State) : (initRelease s).draws = s.draws := rfl
@[simp] theorem initRelease_wire (s : State) : (initRelease s).wire = s.wire := rfl

/-! ### `initConfigure` -/

@[simp] theorem initConfigure_mirror (s : State) : (initConfigure s).mirror = s.mirror := rfl
@[simp] theorem initConfigure_cs (s : State) : (initConfigure s).cs = s.cs := rfl
@[simp] theorem initConfigure_phase (s : State) : (initConfigure s).phase = s.phase := rfl
@[simp] theorem initConfigure_ptr (s : State) : (initConfigure s).ptr = s.ptr := rfl
@[simp] theorem initConfigure_left (s : State) : (initConfigure s).left = s.left := rfl
@[simp] theorem initConfigure_dir (s : State) : (initConfigure s).dir = s.dir := rfl
@[simp] theorem initConfigure_xbuf (s : State) : (initConfigure s).xbuf = s.xbuf := rfl
@[simp] theorem initConfigure_delay (s : State) : (initConfigure s).delay = s.delay := rfl
@[simp] theorem initConfigure_life (s : State) : (initConfigure s).life = s.life := rfl
@[simp] theorem initConfigure_err (s : State) : (initConfigure s).err = s.err := rfl
@[simp] theorem initConfigure_busy (s : State) : (initConfigure s).busy = s.busy := rfl
@[simp] theorem initConfigure_buscfg (s : State) : (initConfigure s).buscfg = { configured := true, clockHz := Config.spiClockHz, cpol := Config.spiCpol, cpha := Config.spiCpha } := rfl
@[simp] theorem initConfigure_hist (s : State) : (initConfigure s).hist = s.hist := rfl
@[simp] theorem initConfigure_resp (s : State) : (initConfigure s).resp = s.resp := rfl
@[simp] theorem initConfigure_port (s : State) : (initConfigure s).port = s.port := rfl
@[simp] theorem initConfigure_answers (s : State) : (initConfigure s).answers = s.answers := rfl
@[simp] theorem initConfigure_draws (s : State) : (initConfigure s).draws = s.draws := rfl
@[simp] theorem initConfigure_wire (s : State) : (initConfigure s).wire = s.wire := rfl

/-! ### `startDelay` -/

@[simp] theorem startDelay_mirror (s : State) : (startDelay s).mirror = s.mirror := rfl
@[simp] theorem startDelay_cs (s : State) : (startDelay s).cs = s.cs := rfl
@[simp] theorem startDelay_phase (s : State) : (startDelay s).phase = s.phase := rfl
@[simp] theorem startDelay_ptr (s : State) : (startDelay s).ptr = s.ptr := rfl
@[simp] theorem startDelay_left (s : State) : (startDelay s).left = s.left := rfl
@[simp] theorem startDelay_dir (s : State) : (startDelay s).dir = s.dir := rfl
@[simp] theorem startDelay_xbuf (s : State) : (startDelay s).xbuf = s.xbuf := rfl
@[simp] theorem startDelay_delay (s : State) : (startDelay s).delay = Config.oneShotDelay := rfl
@[simp] theorem startDelay_life (s : State) : (startDelay s).life = s.life := rfl
@[simp] theorem startDelay_err (s : State) : (startDelay s).err = s.err := rfl
@[simp] theorem startDelay_busy (s : State) : (startDelay s).busy = s.busy := rfl
@[simp] theorem startDelay_buscfg (s : State) : (startDelay s).buscfg = s.buscfg := rfl
@[simp] theorem startDelay_hist (s : State) : (startDelay s).hist = s.hist := rfl
@[simp] theorem startDelay_resp (s : State) : (startDelay s).resp = s.resp := rfl
@[simp] theorem startDelay_port (s : State) : (startDelay s).port = s.port := rfl
@[simp] theorem startDelay_answers (s : State) : (startDelay s).answers = s.answers := rfl
@[simp] theorem startDelay_draws (s : State) : (startDelay s).draws = s.draws := rfl
@[simp] theorem startDelay_wire (s : State) : (startDelay s).wire = s.wire := rfl

/-! ### `expireDelay` -/

@[simp] theorem expireDelay_mirror (s : State) : (expireDelay s).mirror = s.mirror := rfl
@[simp] theorem expireDelay_cs (s : State) : (expireDelay s).cs = s.cs := rfl
@[simp] theorem expireDelay_phase (s : State) : (expireDelay s).phase = s.phase := rfl
@[simp] theorem expireDelay_ptr (s : State) : (expireDelay s).ptr = s.ptr := rfl
@[simp] theorem expireDelay_left (s : State) : (expireDelay s).left = s.left := rfl
@[simp] theorem expireDelay_dir (s : State) : (expireDelay s).dir = s.dir := rfl
@[simp] theorem expireDelay_xbuf (s : State) : (expireDelay s).xbuf = s.xbuf := rfl
@[simp] theorem expireDelay_delay (s : State) : (expireDelay s).delay = 0 := rfl
@[simp] theorem expireDelay_life (s : State) : (expireDelay s).life = s.life := rfl
@[simp] theorem expireDelay_err (s : State) : (expireDelay s).err = s.err := rfl
@[simp] theorem expireDelay_busy (s : State) : (expireDelay s).busy = s.busy := rfl
@[simp] theorem expireDelay_buscfg (s : State) : (expireDelay s).buscfg = s.buscfg := rfl
@[simp] theorem expireDelay_hist (s : State) : (expireDelay s).hist = s.hist := rfl
@[simp] theorem expireDelay_resp (s : State) : (expireDelay s).resp = s.resp := rfl
@[simp] theorem expireDelay_port (s : State) : (expireDelay s).port = s.port := rfl
@[simp] theorem expireDelay_answers (s : State) : (expireDelay s).answers = s.answers := rfl
@[simp] theorem expireDelay_draws (s : State) : (expireDelay s).draws = s.draws := rfl
@[simp] theorem expireDelay_wire (s : State) : (expireDelay s).wire = s.wire ++ [.wait s.delay] := rfl

/-! ### `assertReset` -/

@[simp] theorem assertReset_mirror (s : State) : (assertReset s).mirror = State.reset.mirror := rfl
@[simp] theorem assertReset_cs (s : State) : (assertReset s).cs = State.reset.cs := rfl
@[simp] theorem assertReset_phase (s : State) : (assertReset s).phase = State.reset.phase := rfl
@[simp] theorem assertReset_ptr (s : State) : (assertReset s).ptr = State.reset.ptr := rfl
@[simp] theorem assertReset_left (s : State) : (assertReset s).left = State.reset.left := rfl
@[simp] theorem assertReset_dir (s : State) : (assertReset s).dir = State.reset.dir := rfl
@[simp] theorem assertReset_xbuf (s : State) : (assertReset s).xbuf = State.reset.xbuf := rfl
@[simp] theorem assertReset_delay (s : State) : (assertReset s).delay = State.reset.delay := rfl
@[simp] theorem assertReset_life (s : State) : (assertReset s).life = State.reset.life := rfl
@[simp] theorem assertReset_err (s : State) : (assertReset s).err = State.reset.err := rfl
@[simp] theorem assertReset_busy (s : State) : (assertReset s).busy = State.reset.busy := rfl
@[simp] theorem assertReset_buscfg (s : State) : (assertReset s).buscfg = State.reset.buscfg := rfl
@[simp] theorem assertReset_hist (s : State) : (assertReset s).hist = State.reset.hist := rfl
@[simp] theorem assertReset_resp (s : State) : (assertReset s).resp = State.reset.resp := rfl
@[simp] theorem assertReset_port (s : State) : (assertReset s).port = s.port := rfl
@[simp] theorem assertReset_answers (s : State) : (assertReset s).answers = s.answers := rfl
@[simp] theorem assertReset_draws (s : State) : (assertReset s).draws = s.draws := rfl
@[simp] theorem assertReset_wire (s : State) : (assertReset s).wire = State.reset.wire := rfl

/-! ### `keepReceived` -/

@[simp] theorem keepReceived_mirror (j : Nat) (r : Byte) (s : State) : (keepReceived j r s).mirror = s.mirror := rfl
@[simp] theorem keepReceived_cs (j : Nat) (r : Byte) (s : State) : (keepReceived j r s).cs = s.cs := rfl
@[simp] theorem keepReceived_phase (j : Nat) (r : Byte) (s : State) : (keepReceived j r s).phase = s.phase := rfl
@[simp] theorem keepReceived_ptr (j : Nat) (r : Byte) (s : State) : (keepReceived j r s).ptr = s.ptr := rfl
@[simp] theorem keepReceived_left (j : Nat) (r : Byte) (s : State) : (keepReceived j r s).left = s.left := rfl
@[simp] theorem keepReceived_dir (j : Nat) (r : Byte) (s : State) : (keepReceived j r s).dir = s.dir := rfl
@[simp] theorem keepReceived_delay (j : Nat) (r : Byte) (s : State) : (keepReceived j r s).delay = s.delay := rfl
@[simp] theorem keepReceived_life (j : Nat) (r : Byte) (s : State) : (keepReceived j r s).life = s.life := rfl
@[simp] theorem keepReceived_err (j : Nat) (r : Byte) (s : State) : (keepReceived j r s).err = s.err := rfl
@[simp] theorem keepReceived_busy (j : Nat) (r : Byte) (s : State) : (keepReceived j r s).busy = s.busy := rfl
@[simp] theorem keepReceived_buscfg (j : Nat) (r : Byte) (s : State) : (keepReceived j r s).buscfg = s.buscfg := rfl
@[simp] theorem keepReceived_hist (j : Nat) (r : Byte) (s : State) : (keepReceived j r s).hist = s.hist := rfl
@[simp] theorem keepReceived_resp (j : Nat) (r : Byte) (s : State) : (keepReceived j r s).resp = s.resp := rfl
@[simp] theorem keepReceived_port (j : Nat) (r : Byte) (s : State) : (keepReceived j r s).port = s.port := rfl
@[simp] theorem keepReceived_answers (j : Nat) (r : Byte) (s : State) : (keepReceived j r s).answers = s.answers := rfl
@[simp] theorem keepReceived_draws (j : Nat) (r : Byte) (s : State) : (keepReceived j r s).draws = s.draws := rfl
@[simp] theorem keepReceived_wire (j : Nat) (r : Byte) (s : State) : (keepReceived j r s).wire = s.wire := rfl

/-! ### `addressExchanged` -/

@[simp] theorem addressExchanged_mirror (r : Byte) (s : State) : (addressExchanged r s).mirror = s.mirror := rfl
@[simp] theorem addressExchanged_cs (r : Byte) (s : State) : (addressExchanged r s).cs = s.cs := rfl
@[simp] theorem addressExchanged_phase (r : Byte) (s : State) : (addressExchanged r s).phase = .data := rfl
@[simp] theorem addressExchanged_ptr (r : Byte) (s : State) : (addressExchanged r s).ptr = s.ptr := rfl
@[simp] theorem addressExchanged_left (r : Byte) (s : State) : (addressExchanged r s).left = s.left := rfl
@[simp] theorem addressExchanged_dir (r : Byte) (s : State) : (addressExchanged r s).dir = s.dir := rfl
@[simp] theorem addressExchanged_delay (r : Byte) (s : State) : (addressExchanged r s).delay = s.delay := rfl
@[simp] theorem addressExchanged_life (r : Byte) (s : State) : (addressExchanged r s).life = s.life := rfl
@[simp] theorem addressExchanged_err (r : Byte) (s : State) : (addressExchanged r s).err = s.err := rfl
@[simp] theorem addressExchanged_busy (r : Byte) (s : State) : (addressExchanged r s).busy = s.busy := rfl
@[simp] theorem addressExchanged_buscfg (r : Byte) (s : State) : (addressExchanged r s).buscfg = s.buscfg := rfl
@[simp] theorem addressExchanged_hist (r : Byte) (s : State) : (addressExchanged r s).hist = s.hist := rfl
@[simp] theorem addressExchanged_resp (r : Byte) (s : State) : (addressExchanged r s).resp = s.resp := rfl
@[simp] theorem addressExchanged_port (r : Byte) (s : State) : (addressExchanged r s).port = s.port := rfl
@[simp] theorem addressExchanged_answers (r : Byte) (s : State) : (addressExchanged r s).answers = s.answers := rfl
@[simp] theorem addressExchanged_draws (r : Byte) (s : State) : (addressExchanged r s).draws = s.draws := rfl
@[simp] theorem addressExchanged_wire (r : Byte) (s : State) : (addressExchanged r s).wire = s.wire := rfl

/-! ### `dataExchanged` -/

@[simp] theorem dataExchanged_mirror (j : Nat) (r : Byte) (s : State) : (dataExchanged j r s).mirror = s.mirror := rfl
@[simp] theorem dataExchanged_cs (j : Nat) (r : Byte) (s : State) : (dataExchanged j r s).cs = s.cs := rfl
@[simp] theorem dataExchanged_phase (j : Nat) (r : Byte) (s : State) : (dataExchanged j r s).phase = s.phase := rfl
@[simp] theorem dataExchanged_ptr (j : Nat) (r : Byte) (s : State) : (dataExchanged j r s).ptr = s.ptr + 1 := rfl
@[simp] theorem dataExchanged_left (j : Nat) (r : Byte) (s : State) : (dataExchanged j r s).left = s.left - 1 := rfl
@[simp] theorem dataExchanged_dir (j : Nat) (r : Byte) (s : State) : (dataExchanged j r s).dir = s.dir := rfl
@[simp] theorem dataExchanged_delay (j : Nat) (r : Byte) (s : State) : (dataExchanged j r s).delay = s.delay := rfl
@[simp] theorem dataExchanged_life (j : Nat) (r : Byte) (s : State) : (dataExchanged j r s).life = s.life := rfl
@[simp] theorem dataExchanged_err (j : Nat) (r : Byte) (s : State) : (dataExchanged j r s).err = s.err := rfl
@[simp] theorem dataExchanged_busy (j : Nat) (r : Byte) (s : State) : (dataExchanged j r s).busy = s.busy := rfl
@[simp] theorem dataExchanged_buscfg (j : Nat) (r : Byte) (s : State) : (dataExchanged j r s).buscfg = s.buscfg := rfl
@[simp] theorem dataExchanged_hist (j : Nat) (r : Byte) (s : State) : (dataExchanged j r s).hist = s.hist := rfl
@[simp] theorem dataExchanged_resp (j : Nat) (r : Byte) (s : State) : (dataExchanged j r s).resp = s.resp := rfl
@[simp] theorem dataExchanged_port (j : Nat) (r : Byte) (s : State) : (dataExchanged j r s).port = s.port := rfl
@[simp] theorem dataExchanged_answers (j : Nat) (r : Byte) (s : State) : (dataExchanged j r s).answers = s.answers := rfl
@[simp] theorem dataExchanged_draws (j : Nat) (r : Byte) (s : State) : (dataExchanged j r s).draws = s.draws := rfl
@[simp] theorem dataExchanged_wire (j : Nat) (r : Byte) (s : State) : (dataExchanged j r s).wire = s.wire := rfl

end Sys2Proof.Machine
end

