-- ==== Sys2Proof/Laws/Bus.lean ====
section
/-! SUPPORT. What the sequencer's operations do, said once: the exact result of a transaction whose answers are known
(`…_heard`, `…_fails`), and everything a transaction can do whatever the environment answers (`…_spec`). -/

namespace Sys2Proof.Machine

/-! ### One exchange -/

/-- What one exchange shows on the wire. -/
def shownByte (d : Dir) (t r : Byte) : WireEvent :=
  match d with
  | .wr => .sent t
  | .rd => .duplex t r

theorem exchange_reply {s : State} {r : Byte} {rest : List Answer} (t : Byte) (h : s.answers = .reply r :: rest) :
    exchange t s = (some r, { s with answers := rest, wire := s.wire ++ [shownByte s.dir t r] }) := by
  simp only [exchange, nextAnswer, h]
  cases s.dir <;> rfl

theorem exchange_fail {s : State} {rest : List Answer} (t : Byte) (h : s.answers = .fail :: rest) :
    exchange t s = (none, { s with answers := rest, wire := s.wire ++ [.broken] }) := by
  simp [exchange, nextAnswer, h]

/-- Whatever the environment answers, an exchange touches the answers, the draw counter and the wire; what comes back
depends on the answers and the counter alone. -/
theorem exchange_cases (A : List Answer) (D : Nat) :
    ∃ A' D',
      (∃ r, ∀ (t : Byte) (s : State), s.answers = A → s.draws = D → exchange t s =
        (some r, { s with answers := A', draws := D', wire := s.wire ++ [shownByte s.dir t r] })) ∨
      ∀ (t : Byte) (s : State), s.answers = A → s.draws = D →
        exchange t s = (none, { s with answers := A', draws := D', wire := s.wire ++ [.broken] }) := by
  cases A with
  | cons a rest =>
    refine ⟨rest, D, ?_⟩
    cases a with
    | reply r => exact .inl ⟨r, fun t s hA hD => by rw [exchange_reply t hA, ← hD]⟩
    | fail => exact .inr fun t s hA hD => by rw [exchange_fail t hA, ← hD]
  | nil =>
    refine ⟨[], D + 1, ?_⟩
    cases hb : Config.busAnswer D with
    | reply r =>
      refine .inl ⟨r, fun t s hA hD => ?_⟩
      subst hD
      simp only [exchange, nextAnswer, hA, hb]
      cases s.dir <;> rfl
    | fail =>
      refine .inr fun t s hA hD => ?_
      subst hD
      simp [exchange, nextAnswer, hA, hb]

/-! ### The data bytes -/

/-- What a run of exchanges shows on the wire. -/
def shownBytes (d : Dir) : List Byte → List Byte → List WireEvent
  | t :: ts, r :: rs => shownByte d t r :: shownBytes d ts rs
  | _, _ => []

theorem shownBytes_rd (ts rs : List Byte) : shownBytes .rd ts rs = List.zipWith .duplex ts rs := by
  induction ts generalizing rs with
  | nil => cases rs <;> rfl
  | cons t ts ih => cases rs with
    | nil => rfl
    | cons r rs => simp [shownBytes, shownByte, ih]

theorem shownBytes_wr (ts rs : List Byte) : shownBytes .wr ts rs = (ts.take rs.length).map .sent := by
  induction ts generalizing rs with
  | nil => cases rs <;> simp [shownBytes]
  | cons t ts ih => cases rs with
    | nil => simp [shownBytes]
    | cons r rs => simp [shownBytes, shownByte, ih]

/-- The exchange buffer after received bytes have replaced sent ones from index `j` on. -/
def overwrite (xs : List Byte) (j : Nat) : List Byte → List Byte
  | [] => xs
  | b :: bs => overwrite (xs.set j b) (j + 1) bs

@[simp] theorem length_overwrite (bs xs : List Byte) (j : Nat) : (overwrite xs j bs).length = xs.length := by
  induction bs generalizing xs j with
  | nil => rfl
  | cons b bs ih => simp [overwrite, ih]

theorem overwrite_append (bs pre mid tail : List Byte) (h : mid.length = bs.length) :
    overwrite (pre ++ mid ++ tail) pre.length bs = pre ++ bs ++ tail := by
  induction bs generalizing pre mid with
  | nil =>
    have : mid = [] := List.length_eq_zero_iff.mp h
    simp [overwrite, this]
  | cons b bs ih =>
    cases mid with
    | nil => simp at h
    | cons m mid =>
      have h' : mid.length = bs.length := by simpa using h
      have := ih (pre ++ [b]) mid h'
      simp only [List.length_append, List.length_cons, List.length_nil, Nat.zero_add, List.append_assoc,
        List.cons_append, List.nil_append] at this
      simp only [overwrite, List.append_assoc, List.cons_append, List.set_append_right _ _ (Nat.le_refl _),
        Nat.sub_self, List.set_cons_zero]
      simpa using this

/-- The buffer of a transaction in direction `d` after `rs` came back from index `j` on. -/
def keptBytes (d : Dir) (xs : List Byte) (j : Nat) (rs : List Byte) : List Byte :=
  match d with
  | .rd => overwrite xs j rs
  | .wr => xs

/-- The state after the data bytes `ts` were exchanged as far as `rs` came back. -/
def afterData (j : Nat) (ts rs : List Byte) (answers : List Answer) (draws : Nat) (s : State) : State :=
  { s with
    ptr := s.ptr + BitVec.ofNat 5 rs.length
    left := s.left - BitVec.ofNat 5 rs.length
    xbuf := keptBytes s.dir s.xbuf j rs
    answers := answers
    draws := draws
    wire := s.wire ++ shownBytes s.dir ts rs }

theorem afterData_nil (j : Nat) (ts : List Byte) (s : State) : afterData j ts [] s.answers s.draws s = s := by
  have hk : keptBytes s.dir s.xbuf j [] = s.xbuf := by cases s.dir <;> rfl
  simp [afterData, hk, shownBytes]

theorem afterData_cons (j : Nat) (t r : Byte) (ts rs : List Byte) (a a' : List Answer) (n n' : Nat) (s : State) :
    afterData (j + 1) ts rs a n
        (dataExchanged j r { s with answers := a', draws := n', wire := s.wire ++ [shownByte s.dir t r] }) =
      afterData j (t :: ts) (r :: rs) a n s := by
  have hp : s.ptr + 1 + BitVec.ofNat 5 rs.length = s.ptr + BitVec.ofNat 5 (rs.length + 1) := by
    rw [BitVec.add_assoc, BitVec.add_comm 1, BitVec.ofNat_add]
    rfl
  have hl : s.left - 1 - BitVec.ofNat 5 rs.length = s.left - BitVec.ofNat 5 (rs.length + 1) := by
    rw [BitVec.ofNat_add, BitVec.add_comm (BitVec.ofNat 5 rs.length)]
    simp only [BitVec.sub_eq_add_neg, BitVec.add_assoc, BitVec.neg_add]
    rfl
  simp only [afterData, dataExchanged, keepReceived, hp, hl, shownBytes, List.append_assoc, List.cons_append,
    List.nil_append, List.length_cons]
  cases s.dir <;> rfl

theorem shiftData_heard {ts rs : List Byte} {rest : List Answer} {s : State} (j : Nat)
    (h : Heard s rs rest) (hl : rs.length = ts.length) :
    shiftData j s ts = .complete (afterData j ts rs rest s.draws s) := by
  induction ts generalizing rs j s with
  | nil =>
    have : rs = [] := List.length_eq_zero_iff.mp hl
    subst this
    have : rest = s.answers := by simpa [Heard] using h.symm
    rw [this, afterData_nil]
    rfl
  | cons t ts ih =>
    cases rs with
    | nil => simp at hl
    | cons r rs =>
      have ha : s.answers = .reply r :: (rs.map .reply ++ rest) := by simpa [Heard] using h
      simp only [shiftData, exchange_reply t ha]
      rw [ih (j + 1) (rs := rs) (by simp [Heard]) (by simpa using hl)]
      have := afterData_cons j t r ts rs rest (rs.map .reply ++ rest) s.draws s.draws s
      rw [← this]
      rfl

theorem shiftData_fails {ts rs : List Byte} {rest : List Answer} {s : State} (j : Nat)
    (h : HeardThenFails s rs rest) (hl : rs.length < ts.length) :
    shiftData j s ts = .broke (j + rs.length)
      { afterData j ts rs rest s.draws s with wire := s.wire ++ shownBytes s.dir ts rs ++ [.broken] } := by
  induction ts generalizing rs j s with
  | nil => simp at hl
  | cons t ts ih =>
    cases rs with
    | nil =>
      have ha : s.answers = .fail :: rest := by simpa [HeardThenFails] using h
      simp only [shiftData, exchange_fail t ha]
      cases hd : s.dir <;> simp [afterData, keptBytes, overwrite, shownBytes, hd]
    | cons r rs =>
      have ha : s.answers = .reply r :: (rs.map .reply ++ .fail :: rest) := by simpa [HeardThenFails] using h
      simp only [shiftData, exchange_reply t ha]
      rw [ih (j + 1) (rs := rs) (by simp [HeardThenFails])
        (by simpa using hl)]
      have := afterData_cons j t r ts rs rest (rs.map .reply ++ .fail :: rest) s.draws s.draws s
      rw [← this]
      congr 1
      · simp
        omega
      · simp [afterData, shownBytes]

/-- Everything the data bytes can do; how far they get and what comes back depends on the answers and the draw counter
alone. -/
theorem shiftData_cases (ts : List Byte) (A : List Answer) (D : Nat) :
    ∃ rs A' D',
      (rs.length = ts.length ∧ ∀ (j : Nat) (s : State), s.answers = A → s.draws = D →
        shiftData j s ts = .complete (afterData j ts rs A' D' s)) ∨
      (rs.length < ts.length ∧ ∀ (j : Nat) (s : State), s.answers = A → s.draws = D →
        shiftData j s ts = .broke (j + rs.length)
          { afterData j ts rs A' D' s with wire := s.wire ++ shownBytes s.dir ts rs ++ [.broken] }) := by
  induction ts generalizing A D with
  | nil => exact ⟨[], A, D, .inl ⟨rfl, fun j s hA hD => by rw [← hA, ← hD, afterData_nil]; rfl⟩⟩
  | cons t ts ih =>
    obtain ⟨A1, D1, ⟨r, hr⟩ | hf⟩ := exchange_cases A D
    · obtain ⟨rs, A', D', ⟨hl, hc⟩ | ⟨hl, hb⟩⟩ := ih A1 D1
      · refine ⟨r :: rs, A', D', .inl ⟨by simp [hl], fun j s hA hD => ?_⟩⟩
        simp only [shiftData, hr t s hA hD]
        rw [hc (j + 1) _ rfl rfl, afterData_cons]
      · refine ⟨r :: rs, A', D', .inr ⟨by simpa using hl, fun j s hA hD => ?_⟩⟩
        simp only [shiftData, hr t s hA hD]
        rw [hb (j + 1) _ rfl rfl, afterData_cons]
        congr 1
        · simp
          omega
        · simp [shownBytes]
    · refine ⟨[], A1, D1, .inr ⟨by simp, fun j s hA hD => ?_⟩⟩
      simp only [shiftData, hf t s hA hD]
      cases hd : s.dir <;> simp [afterData, keptBytes, overwrite, shownBytes, hd]

/-! ### A frame -/

/-- The state after a frame of `t :: ts` was exchanged as far as `r :: rs` came back. -/
def afterFrame (t r : Byte) (ts rs : List Byte) (answers : List Answer) (draws : Nat) (s : State) : State :=
  { s with
    phase := .data
    ptr := s.ptr + BitVec.ofNat 5 rs.length
    left := s.left - BitVec.ofNat 5 rs.length
    xbuf := keptBytes s.dir s.xbuf 0 (r :: rs)
    answers := answers
    draws := draws
    wire := s.wire ++ shownBytes s.dir (t :: ts) (r :: rs) }

theorem afterFrame_eq (t r : Byte) (ts rs : List Byte) (a a' : List Answer) (n n' : Nat) (s : State) :
    afterData 1 ts rs a n
        (addressExchanged r { s with answers := a', draws := n', wire := s.wire ++ [shownByte s.dir t r] }) =
      afterFrame t r ts rs a n s := by
  simp only [afterData, afterFrame, addressExchanged, keepReceived, shownBytes, List.append_assoc, List.cons_append,
    List.nil_append]
  cases s.dir <;> rfl

theorem shiftFrame_heard {t r : Byte} {ts rs : List Byte} {rest : List Answer} {s : State}
    (h : Heard s (r :: rs) rest) (hl : rs.length = ts.length) :
    shiftFrame s (t :: ts) = .complete (afterFrame t r ts rs rest s.draws s) := by
  have ha : s.answers = .reply r :: (rs.map .reply ++ rest) := by simpa [Heard] using h
  simp only [shiftFrame, exchange_reply t ha]
  rw [shiftData_heard (rs := rs) (rest := rest) 1
    (by simp [Heard]) hl]
  rw [← afterFrame_eq t r ts rs rest (rs.map .reply ++ rest) s.draws s.draws s]
  rfl

/-- The state in which the exchange of the byte after `rs` has failed. -/
def brokenFrame (ts rs : List Byte) (answers : List Answer) (draws : Nat) (s : State) : State :=
  match ts, rs with
  | t :: ts, r :: rs =>
    { afterFrame t r ts rs answers draws s with wire := s.wire ++ shownBytes s.dir (t :: ts) (r :: rs) ++ [.broken] }
  | _, _ => { s with answers := answers, draws := draws, wire := s.wire ++ [.broken] }

theorem shiftFrame_fails {ts rs : List Byte} {rest : List Answer} {s : State}
    (h : HeardThenFails s rs rest) (hl : rs.length < ts.length) :
    shiftFrame s ts = .broke rs.length (brokenFrame ts rs rest s.draws s) := by
  cases ts with
  | nil => simp at hl
  | cons t ts =>
    cases rs with
    | nil =>
      have ha : s.answers = .fail :: rest := by simpa [HeardThenFails] using h
      simp [shiftFrame, exchange_fail t ha, brokenFrame]
    | cons r rs =>
      have ha : s.answers = .reply r :: (rs.map .reply ++ .fail :: rest) := by simpa [HeardThenFails] using h
      simp only [shiftFrame, exchange_reply t ha]
      rw [shiftData_fails (rs := rs) (rest := rest) 1
        (by simp [HeardThenFails]) (by simpa using hl)]
      have := afterFrame_eq t r ts rs rest (rs.map .reply ++ .fail :: rest) s.draws s.draws s
      simp only [brokenFrame, List.length_cons, ← this]
      congr 1
      · omega
      · simp [afterData, shownBytes]

/-- Everything a frame can do; how far it gets and what comes back depends on the answers and the draw counter alone. -/
theorem shiftFrame_cases (t : Byte) (ts : List Byte) (A : List Answer) (D : Nat) :
    ∃ A' D',
      (∃ r rs, rs.length = ts.length ∧ ∀ s : State, s.answers = A → s.draws = D →
        shiftFrame s (t :: ts) = .complete (afterFrame t r ts rs A' D' s)) ∨
      (∃ rs : List Byte, rs.length ≤ ts.length ∧ ∀ s : State, s.answers = A → s.draws = D →
        shiftFrame s (t :: ts) = .broke rs.length (brokenFrame (t :: ts) rs A' D' s)) := by
  obtain ⟨A1, D1, ⟨r, hr⟩ | hf⟩ := exchange_cases A D
  · obtain ⟨rs, A', D', ⟨hl, hc⟩ | ⟨hl, hb⟩⟩ := shiftData_cases ts A1 D1
    · refine ⟨A', D', .inl ⟨r, rs, hl, fun s hA hD => ?_⟩⟩
      simp only [shiftFrame, hr t s hA hD]
      rw [hc 1 _ rfl rfl, afterFrame_eq]
    · refine ⟨A', D', .inr ⟨r :: rs, by simpa using hl, fun s hA hD => ?_⟩⟩
      simp only [shiftFrame, hr t s hA hD]
      rw [hb 1 _ rfl rfl, afterFrame_eq]
      simp only [brokenFrame]
      congr 1
      · simp
        omega
      · simp [shownBytes]
  · refine ⟨A1, D1, .inr ⟨[], by simp, fun s hA hD => ?_⟩⟩
    simp [shiftFrame, hf t s hA hD, brokenFrame]

end Sys2Proof.Machine
end

