-- ==== Sys2Proof/Laws/Transaction.lean ====
section
/-! SUPPORT. What a transaction does, said once: its exact result when the answers are known, and what it does whatever
the environment answers. The provers cite these instead of unfolding the sequencer. -/

namespace Sys2Proof.Machine

/-! ### Known answers -/

/-- The state after a completed write transaction. -/
def afterWrite (a : Nat) (payload : List Byte) (answers : List Answer) (draws : Nat) (s : State) : State :=
  { s with
    cs := .inactive
    phase := .idle
    ptr := BitVec.ofNat 5 (a + payload.length)
    left := 0
    dir := .wr
    xbuf := writeFrame a payload ++ s.xbuf.drop (payload.length + 1)
    hist := s.hist ++ [.w a payload]
    answers := answers
    draws := draws
    wire := s.wire ++ wireOfWrite a payload }

/-- The state after a completed read transaction; `x` was received during the address byte. -/
def afterRead (a n : Nat) (x : Byte) (bytes : List Byte) (answers : List Answer) (draws : Nat) (s : State) : State :=
  { s with
    cs := .inactive
    phase := .idle
    ptr := BitVec.ofNat 5 (a + n)
    left := 0
    dir := .rd
    xbuf := x :: bytes ++ s.xbuf.drop (n + 1)
    hist := s.hist ++ [.r a n bytes]
    answers := answers
    draws := draws
    wire := s.wire ++ wireOfRead a n (x :: bytes) }

/-- The state in which a write transaction has failed after `rs` came back. -/
def brokenWrite (a : Nat) (payload rs : List Byte) (answers : List Answer) (draws : Nat) (s : State) : State :=
  brokenFrame (writeFrame a payload) rs answers draws
    (startTransaction .wr a payload.length (writeFrame a payload) s)

/-- The state in which a read transaction has failed after `rs` came back. -/
def brokenRead (a n : Nat) (rs : List Byte) (answers : List Answer) (draws : Nat) (s : State) : State :=
  brokenFrame (readFrame a n) rs answers draws (startTransaction .rd a n (readFrame a n) s)

theorem endTransaction_write {a : Nat} {payload rs : List Byte} {r : Byte} (answers : List Answer) (draws : Nat)
    (s : State) (hl : rs.length = payload.length) :
    endTransaction (.w a payload) (afterFrame (Params.writeFlag ||| BitVec.ofNat 8 a) r payload rs answers draws
        (startTransaction .wr a payload.length (writeFrame a payload) s)) =
      afterWrite a payload answers draws s := by
  have hp : BitVec.ofNat 5 a + BitVec.ofNat 5 payload.length = BitVec.ofNat 5 (a + payload.length) := by
    rw [BitVec.ofNat_add]
  simp only [afterWrite, endTransaction, afterFrame, startTransaction, keptBytes, shownBytes_wr, hl, hp,
    BitVec.sub_self, wireOfWrite, writeFrame, List.length_cons, List.take_succ_cons, List.take_length,
    List.append_assoc, List.cons_append, List.nil_append, List.map_cons]
  rfl

theorem captured_read {a n : Nat} {x : Byte} {bytes : List Byte} (answers : List Answer) (draws : Nat) (s : State)
    (hl : bytes.length = n) :
    captured n (afterFrame (BitVec.ofNat 8 a) x (List.replicate n Params.readFill) bytes answers draws
        (startTransaction .rd a n (readFrame a n) s)) = bytes ∧
      endTransaction (.r a n bytes) (afterFrame (BitVec.ofNat 8 a) x (List.replicate n Params.readFill) bytes answers
        draws (startTransaction .rd a n (readFrame a n) s)) = afterRead a n x bytes answers draws s := by
  have hp : BitVec.ofNat 5 a + BitVec.ofNat 5 n = BitVec.ofNat 5 (a + n) := by
    rw [BitVec.ofNat_add]
  have hx : overwrite (readFrame a n ++ List.drop (n + 1) s.xbuf) 0 (x :: bytes) =
      x :: bytes ++ List.drop (n + 1) s.xbuf := by
    have := overwrite_append (x :: bytes) [] (readFrame a n) (List.drop (n + 1) s.xbuf) (by simp [readFrame, hl])
    simpa using this
  have hlen : (readFrame a n).length = n + 1 := by simp [readFrame]
  constructor
  · simp only [captured, afterFrame, startTransaction, keptBytes, hx, hlen]
    simp [← hl]
  · simp only [afterRead, endTransaction, afterFrame, startTransaction, keptBytes, shownBytes_rd, hl, hp, hx, hlen,
      BitVec.sub_self]
    simp only [wireOfRead, readFrame, List.append_assoc, List.cons_append, List.nil_append]
    rfl

/-- A write transaction whose exchanges all complete (R121). -/
theorem busWrite_heard {s : State} {rs : List Byte} {rest : List Answer} (a : Nat) (payload : List Byte)
    (h : Heard s rs rest) (hl : rs.length = payload.length + 1) :
    busWrite a payload s = .done [] (afterWrite a payload rest s.draws s) := by
  cases rs with
  | nil => simp at hl
  | cons r rs =>
    have hl' : rs.length = payload.length := by simpa using hl
    have hf : shiftFrame (startTransaction .wr a payload.length (writeFrame a payload) s) (writeFrame a payload) =
        .complete (afterFrame (Params.writeFlag ||| BitVec.ofNat 8 a) r payload rs rest s.draws
          (startTransaction .wr a payload.length (writeFrame a payload) s)) :=
      shiftFrame_heard h hl'
    simp only [busWrite, hf, endTransaction_write rest s.draws s hl']

/-- A read transaction whose exchanges all complete (R125). -/
theorem busRead_heard {s : State} {x : Byte} {bytes : List Byte} {rest : List Answer} (a n : Nat)
    (h : Heard s (x :: bytes) rest) (hl : bytes.length = n) :
    busRead a n s = .done bytes (afterRead a n x bytes rest s.draws s) := by
  have hf : shiftFrame (startTransaction .rd a n (readFrame a n) s) (readFrame a n) =
      .complete (afterFrame (BitVec.ofNat 8 a) x (List.replicate n Params.readFill) bytes rest s.draws
        (startTransaction .rd a n (readFrame a n) s)) :=
    shiftFrame_heard h (by simpa using hl)
  obtain ⟨hc, he⟩ := captured_read (a := a) (x := x) rest s.draws s hl
  simp only [busRead, hf, hc, he]

/-- A write transaction in which the exchange after `rs` fails (R121, R202). -/
theorem busWrite_fails {s : State} {rs : List Byte} {rest : List Answer} (a : Nat) (payload : List Byte)
    (h : HeardThenFails s rs rest) (hl : rs.length ≤ payload.length) :
    busWrite a payload s = .failed (.busTransportFailure .wr a rs.length)
      (brokenWrite a payload rs rest s.draws s) := by
  have hf := shiftFrame_fails (ts := writeFrame a payload) (rs := rs) (rest := rest)
    (s := startTransaction .wr a payload.length (writeFrame a payload) s) h (by simp [writeFrame]; omega)
  simp only [busWrite, hf, startTransaction_draws, brokenWrite]

/-- A read transaction in which the exchange after `rs` fails (R125, R202). -/
theorem busRead_fails {s : State} {rs : List Byte} {rest : List Answer} (a n : Nat)
    (h : HeardThenFails s rs rest) (hl : rs.length ≤ n) :
    busRead a n s = .failed (.busTransportFailure .rd a rs.length)
      (brokenRead a n rs rest s.draws s) := by
  have hf := shiftFrame_fails (ts := readFrame a n) (rs := rs) (rest := rest)
    (s := startTransaction .rd a n (readFrame a n) s) h (by simp [readFrame]; omega)
  simp only [busRead, hf, startTransaction_draws, brokenRead]

/-- A completed read into the mirror (R124). -/
theorem pull_heard {s : State} {x : Byte} {bytes : List Byte} {rest : List Answer} (a n : Nat)
    (h : Heard s (x :: bytes) rest) (hl : bytes.length = n) :
    pull a n s = .done bytes
      { afterRead a n x bytes rest s.draws s with mirror := s.mirror.writeRange a bytes } := by
  simp only [pull, busRead_heard a n h hl]
  rfl

/-- A failed read leaves its range unspecified (R126). -/
theorem pull_fails {s : State} {rs : List Byte} {rest : List Answer} (a n : Nat)
    (h : HeardThenFails s rs rest) (hl : rs.length ≤ n) :
    pull a n s = .failed (.busTransportFailure .rd a rs.length)
      (tear a n (brokenRead a n rs rest s.draws s)) := by
  simp only [pull, busRead_fails a n h hl]

/-! ### The fields of the two states after a transaction -/

@[simp] theorem afterWrite_mirror (a : Nat) (ds : List Byte) (A : List Answer) (D : Nat) (s : State) :
    (afterWrite a ds A D s).mirror = s.mirror := rfl

@[simp] theorem afterWrite_cs (a : Nat) (ds : List Byte) (A : List Answer) (D : Nat) (s : State) :
    (afterWrite a ds A D s).cs = .inactive := rfl

@[simp] theorem afterWrite_phase (a : Nat) (ds : List Byte) (A : List Answer) (D : Nat) (s : State) :
    (afterWrite a ds A D s).phase = .idle := rfl

@[simp] theorem afterWrite_ptr (a : Nat) (ds : List Byte) (A : List Answer) (D : Nat) (s : State) :
    (afterWrite a ds A D s).ptr = BitVec.ofNat 5 (a + ds.length) := rfl

@[simp] theorem afterWrite_left (a : Nat) (ds : List Byte) (A : List Answer) (D : Nat) (s : State) :
    (afterWrite a ds A D s).left = 0 := rfl

@[simp] theorem afterWrite_dir (a : Nat) (ds : List Byte) (A : List Answer) (D : Nat) (s : State) :
    (afterWrite a ds A D s).dir = .wr := rfl

@[simp] theorem afterWrite_xbuf (a : Nat) (ds : List Byte) (A : List Answer) (D : Nat) (s : State) :
    (afterWrite a ds A D s).xbuf = writeFrame a ds ++ s.xbuf.drop (ds.length + 1) := rfl

@[simp] theorem afterWrite_delay (a : Nat) (ds : List Byte) (A : List Answer) (D : Nat) (s : State) :
    (afterWrite a ds A D s).delay = s.delay := rfl

@[simp] theorem afterWrite_life (a : Nat) (ds : List Byte) (A : List Answer) (D : Nat) (s : State) :
    (afterWrite a ds A D s).life = s.life := rfl

@[simp] theorem afterWrite_err (a : Nat) (ds : List Byte) (A : List Answer) (D : Nat) (s : State) :
    (afterWrite a ds A D s).err = s.err := rfl

@[simp] theorem afterWrite_busy (a : Nat) (ds : List Byte) (A : List Answer) (D : Nat) (s : State) :
    (afterWrite a ds A D s).busy = s.busy := rfl

@[simp] theorem afterWrite_buscfg (a : Nat) (ds : List Byte) (A : List Answer) (D : Nat) (s : State) :
    (afterWrite a ds A D s).buscfg = s.buscfg := rfl

@[simp] theorem afterWrite_hist (a : Nat) (ds : List Byte) (A : List Answer) (D : Nat) (s : State) :
    (afterWrite a ds A D s).hist = s.hist ++ [.w a ds] := rfl

@[simp] theorem afterWrite_resp (a : Nat) (ds : List Byte) (A : List Answer) (D : Nat) (s : State) :
    (afterWrite a ds A D s).resp = s.resp := rfl

@[simp] theorem afterWrite_port (a : Nat) (ds : List Byte) (A : List Answer) (D : Nat) (s : State) :
    (afterWrite a ds A D s).port = s.port := rfl

@[simp] theorem afterWrite_answers (a : Nat) (ds : List Byte) (A : List Answer) (D : Nat) (s : State) :
    (afterWrite a ds A D s).answers = A := rfl

@[simp] theorem afterWrite_draws (a : Nat) (ds : List Byte) (A : List Answer) (D : Nat) (s : State) :
    (afterWrite a ds A D s).draws = D := rfl

@[simp] theorem afterWrite_wire (a : Nat) (ds : List Byte) (A : List Answer) (D : Nat) (s : State) :
    (afterWrite a ds A D s).wire = s.wire ++ wireOfWrite a ds := rfl

@[simp] theorem afterRead_mirror (a n : Nat) (x : Byte) (bs : List Byte) (A : List Answer) (D : Nat) (s : State) :
    (afterRead a n x bs A D s).mirror = s.mirror := rfl

@[simp] theorem afterRead_cs (a n : Nat) (x : Byte) (bs : List Byte) (A : List Answer) (D : Nat) (s : State) :
    (afterRead a n x bs A D s).cs = .inactive := rfl

@[simp] theorem afterRead_phase (a n : Nat) (x : Byte) (bs : List Byte) (A : List Answer) (D : Nat) (s : State) :
    (afterRead a n x bs A D s).phase = .idle := rfl

@[simp] theorem afterRead_ptr (a n : Nat) (x : Byte) (bs : List Byte) (A : List Answer) (D : Nat) (s : State) :
    (afterRead a n x bs A D s).ptr = BitVec.ofNat 5 (a + n) := rfl

@[simp] theorem afterRead_left (a n : Nat) (x : Byte) (bs : List Byte) (A : List Answer) (D : Nat) (s : State) :
    (afterRead a n x bs A D s).left = 0 := rfl

@[simp] theorem afterRead_dir (a n : Nat) (x : Byte) (bs : List Byte) (A : List Answer) (D : Nat) (s : State) :
    (afterRead a n x bs A D s).dir = .rd := rfl

@[simp] theorem afterRead_xbuf (a n : Nat) (x : Byte) (bs : List Byte) (A : List Answer) (D : Nat) (s : State) :
    (afterRead a n x bs A D s).xbuf = x :: bs ++ s.xbuf.drop (n + 1) := rfl

@[simp] theorem afterRead_delay (a n : Nat) (x : Byte) (bs : List Byte) (A : List Answer) (D : Nat) (s : State) :
    (afterRead a n x bs A D s).delay = s.delay := rfl

@[simp] theorem afterRead_life (a n : Nat) (x : Byte) (bs : List Byte) (A : List Answer) (D : Nat) (s : State) :
    (afterRead a n x bs A D s).life = s.life := rfl

@[simp] theorem afterRead_err (a n : Nat) (x : Byte) (bs : List Byte) (A : List Answer) (D : Nat) (s : State) :
    (afterRead a n x bs A D s).err = s.err := rfl

@[simp] theorem afterRead_busy (a n : Nat) (x : Byte) (bs : List Byte) (A : List Answer) (D : Nat) (s : State) :
    (afterRead a n x bs A D s).busy = s.busy := rfl

@[simp] theorem afterRead_buscfg (a n : Nat) (x : Byte) (bs : List Byte) (A : List Answer) (D : Nat) (s : State) :
    (afterRead a n x bs A D s).buscfg = s.buscfg := rfl

@[simp] theorem afterRead_hist (a n : Nat) (x : Byte) (bs : List Byte) (A : List Answer) (D : Nat) (s : State) :
    (afterRead a n x bs A D s).hist = s.hist ++ [.r a n bs] := rfl

@[simp] theorem afterRead_resp (a n : Nat) (x : Byte) (bs : List Byte) (A : List Answer) (D : Nat) (s : State) :
    (afterRead a n x bs A D s).resp = s.resp := rfl

@[simp] theorem afterRead_port (a n : Nat) (x : Byte) (bs : List Byte) (A : List Answer) (D : Nat) (s : State) :
    (afterRead a n x bs A D s).port = s.port := rfl

@[simp] theorem afterRead_answers (a n : Nat) (x : Byte) (bs : List Byte) (A : List Answer) (D : Nat) (s : State) :
    (afterRead a n x bs A D s).answers = A := rfl

@[simp] theorem afterRead_draws (a n : Nat) (x : Byte) (bs : List Byte) (A : List Answer) (D : Nat) (s : State) :
    (afterRead a n x bs A D s).draws = D := rfl

@[simp] theorem afterRead_wire (a n : Nat) (x : Byte) (bs : List Byte) (A : List Answer) (D : Nat) (s : State) :
    (afterRead a n x bs A D s).wire = s.wire ++ wireOfRead a n (x :: bs) := rfl

/-! ### The state in which a transaction has failed -/

@[simp] theorem brokenFrame_mirror (ts rs : List Byte) (a : List Answer) (n : Nat) (s : State) :
    (brokenFrame ts rs a n s).mirror = s.mirror := by
  unfold brokenFrame; split <;> rfl

@[simp] theorem brokenFrame_cs (ts rs : List Byte) (a : List Answer) (n : Nat) (s : State) :
    (brokenFrame ts rs a n s).cs = s.cs := by
  unfold brokenFrame; split <;> rfl

@[simp] theorem brokenFrame_delay (ts rs : List Byte) (a : List Answer) (n : Nat) (s : State) :
    (brokenFrame ts rs a n s).delay = s.delay := by
  unfold brokenFrame; split <;> rfl

@[simp] theorem brokenFrame_life (ts rs : List Byte) (a : List Answer) (n : Nat) (s : State) :
    (brokenFrame ts rs a n s).life = s.life := by
  unfold brokenFrame; split <;> rfl

@[simp] theorem brokenFrame_err (ts rs : List Byte) (a : List Answer) (n : Nat) (s : State) :
    (brokenFrame ts rs a n s).err = s.err := by
  unfold brokenFrame; split <;> rfl

@[simp] theorem brokenFrame_busy (ts rs : List Byte) (a : List Answer) (n : Nat) (s : State) :
    (brokenFrame ts rs a n s).busy = s.busy := by
  unfold brokenFrame; split <;> rfl

@[simp] theorem brokenFrame_buscfg (ts rs : List Byte) (a : List Answer) (n : Nat) (s : State) :
    (brokenFrame ts rs a n s).buscfg = s.buscfg := by
  unfold brokenFrame; split <;> rfl

@[simp] theorem brokenFrame_hist (ts rs : List Byte) (a : List Answer) (n : Nat) (s : State) :
    (brokenFrame ts rs a n s).hist = s.hist := by
  unfold brokenFrame; split <;> rfl

@[simp] theorem brokenFrame_resp (ts rs : List Byte) (a : List Answer) (n : Nat) (s : State) :
    (brokenFrame ts rs a n s).resp = s.resp := by
  unfold brokenFrame; split <;> rfl

@[simp] theorem brokenFrame_port (ts rs : List Byte) (a : List Answer) (n : Nat) (s : State) :
    (brokenFrame ts rs a n s).port = s.port := by
  unfold brokenFrame; split <;> rfl

@[simp] theorem brokenFrame_dir (ts rs : List Byte) (a : List Answer) (n : Nat) (s : State) :
    (brokenFrame ts rs a n s).dir = s.dir := by
  unfold brokenFrame; split <;> rfl

@[simp] theorem brokenFrame_answers (ts rs : List Byte) (a : List Answer) (n : Nat) (s : State) :
    (brokenFrame ts rs a n s).answers = a := by
  unfold brokenFrame; split <;> rfl

@[simp] theorem brokenFrame_draws (ts rs : List Byte) (a : List Answer) (n : Nat) (s : State) :
    (brokenFrame ts rs a n s).draws = n := by
  unfold brokenFrame; split <;> rfl

theorem brokenFrame_wire (ts rs : List Byte) (a : List Answer) (n : Nat) (s : State) :
    (brokenFrame ts rs a n s).wire = s.wire ++ shownBytes s.dir ts rs ++ [.broken] := by
  unfold brokenFrame
  split
  · rfl
  · rename_i h
    cases ts with
    | nil => simp [shownBytes]
    | cons t ts => cases rs with
      | nil => simp [shownBytes]
      | cons r rs => exact absurd rfl (h t ts r rs rfl)

theorem brokenFrame_length_xbuf (ts rs : List Byte) (a : List Answer) (n : Nat) (s : State) :
    (brokenFrame ts rs a n s).xbuf.length = s.xbuf.length := by
  unfold brokenFrame
  split
  · cases hd : s.dir <;> simp [afterFrame, keptBytes, hd]
  · rfl

/-- How far the burst pointer and the counter got. -/
theorem brokenFrame_pointer (ts rs : List Byte) (a : List Answer) (n : Nat) (s : State) :
    ∃ m, m ≤ rs.length - 1 ∧ (brokenFrame ts rs a n s).ptr = s.ptr + BitVec.ofNat 5 m ∧
      (brokenFrame ts rs a n s).left = s.left - BitVec.ofNat 5 m := by
  unfold brokenFrame
  split
  · exact ⟨_, by simp, rfl, rfl⟩
  · exact ⟨0, by omega, by simp, by simp⟩

@[simp] theorem brokenWrite_mirror (a : Nat) (ds rs : List Byte) (A : List Answer) (D : Nat) (s : State) :
    (brokenWrite a ds rs A D s).mirror = s.mirror := by
  simp [brokenWrite]

@[simp] theorem brokenRead_mirror (a n : Nat) (rs : List Byte) (A : List Answer) (D : Nat) (s : State) :
    (brokenRead a n rs A D s).mirror = s.mirror := by
  simp [brokenRead]

@[simp] theorem brokenWrite_delay (a : Nat) (ds rs : List Byte) (A : List Answer) (D : Nat) (s : State) :
    (brokenWrite a ds rs A D s).delay = s.delay := by
  simp [brokenWrite]

@[simp] theorem brokenRead_delay (a n : Nat) (rs : List Byte) (A : List Answer) (D : Nat) (s : State) :
    (brokenRead a n rs A D s).delay = s.delay := by
  simp [brokenRead]

@[simp] theorem brokenWrite_life (a : Nat) (ds rs : List Byte) (A : List Answer) (D : Nat) (s : State) :
    (brokenWrite a ds rs A D s).life = s.life := by
  simp [brokenWrite]

@[simp] theorem brokenRead_life (a n : Nat) (rs : List Byte) (A : List Answer) (D : Nat) (s : State) :
    (brokenRead a n rs A D s).life = s.life := by
  simp [brokenRead]

@[simp] theorem brokenWrite_err (a : Nat) (ds rs : List Byte) (A : List Answer) (D : Nat) (s : State) :
    (brokenWrite a ds rs A D s).err = s.err := by
  simp [brokenWrite]

@[simp] theorem brokenRead_err (a n : Nat) (rs : List Byte) (A : List Answer) (D : Nat) (s : State) :
    (brokenRead a n rs A D s).err = s.err := by
  simp [brokenRead]

@[simp] theorem brokenWrite_busy (a : Nat) (ds rs : List Byte) (A : List Answer) (D : Nat) (s : State) :
    (brokenWrite a ds rs A D s).busy = s.busy := by
  simp [brokenWrite]

@[simp] theorem brokenRead_busy (a n : Nat) (rs : List Byte) (A : List Answer) (D : Nat) (s : State) :
    (brokenRead a n rs A D s).busy = s.busy := by
  simp [brokenRead]

@[simp] theorem brokenWrite_buscfg (a : Nat) (ds rs : List Byte) (A : List Answer) (D : Nat) (s : State) :
    (brokenWrite a ds rs A D s).buscfg = s.buscfg := by
  simp [brokenWrite]

@[simp] theorem brokenRead_buscfg (a n : Nat) (rs : List Byte) (A : List Answer) (D : Nat) (s : State) :
    (brokenRead a n rs A D s).buscfg = s.buscfg := by
  simp [brokenRead]

@[simp] theorem brokenWrite_hist (a : Nat) (ds rs : List Byte) (A : List Answer) (D : Nat) (s : State) :
    (brokenWrite a ds rs A D s).hist = s.hist := by
  simp [brokenWrite]

@[simp] theorem brokenRead_hist (a n : Nat) (rs : List Byte) (A : List Answer) (D : Nat) (s : State) :
    (brokenRead a n rs A D s).hist = s.hist := by
  simp [brokenRead]

@[simp] theorem brokenWrite_resp (a : Nat) (ds rs : List Byte) (A : List Answer) (D : Nat) (s : State) :
    (brokenWrite a ds rs A D s).resp = s.resp := by
  simp [brokenWrite]

@[simp] theorem brokenRead_resp (a n : Nat) (rs : List Byte) (A : List Answer) (D : Nat) (s : State) :
    (brokenRead a n rs A D s).resp = s.resp := by
  simp [brokenRead]

@[simp] theorem brokenWrite_port (a : Nat) (ds rs : List Byte) (A : List Answer) (D : Nat) (s : State) :
    (brokenWrite a ds rs A D s).port = s.port := by
  simp [brokenWrite]

@[simp] theorem brokenRead_port (a n : Nat) (rs : List Byte) (A : List Answer) (D : Nat) (s : State) :
    (brokenRead a n rs A D s).port = s.port := by
  simp [brokenRead]

@[simp] theorem brokenWrite_cs (a : Nat) (ds rs : List Byte) (A : List Answer) (D : Nat) (s : State) :
    (brokenWrite a ds rs A D s).cs = .active := by
  simp [brokenWrite]

@[simp] theorem brokenRead_cs (a n : Nat) (rs : List Byte) (A : List Answer) (D : Nat) (s : State) :
    (brokenRead a n rs A D s).cs = .active := by
  simp [brokenRead]

@[simp] theorem brokenWrite_dir (a : Nat) (ds rs : List Byte) (A : List Answer) (D : Nat) (s : State) :
    (brokenWrite a ds rs A D s).dir = .wr := by
  simp [brokenWrite]

@[simp] theorem brokenRead_dir (a n : Nat) (rs : List Byte) (A : List Answer) (D : Nat) (s : State) :
    (brokenRead a n rs A D s).dir = .rd := by
  simp [brokenRead]

@[simp] theorem brokenWrite_answers (a : Nat) (ds rs : List Byte) (A : List Answer) (D : Nat) (s : State) :
    (brokenWrite a ds rs A D s).answers = A := by
  simp [brokenWrite]

@[simp] theorem brokenRead_answers (a n : Nat) (rs : List Byte) (A : List Answer) (D : Nat) (s : State) :
    (brokenRead a n rs A D s).answers = A := by
  simp [brokenRead]

@[simp] theorem brokenWrite_draws (a : Nat) (ds rs : List Byte) (A : List Answer) (D : Nat) (s : State) :
    (brokenWrite a ds rs A D s).draws = D := by
  simp [brokenWrite]

@[simp] theorem brokenRead_draws (a n : Nat) (rs : List Byte) (A : List Answer) (D : Nat) (s : State) :
    (brokenRead a n rs A D s).draws = D := by
  simp [brokenRead]

/-- A failed write on the wire: the bytes exchanged, then the failure. -/
theorem brokenWrite_wire (a : Nat) (ds rs : List Byte) (A : List Answer) (D : Nat) (s : State) :
    (brokenWrite a ds rs A D s).wire =
      s.wire ++ (.select :: ((writeFrame a ds).take rs.length).map .sent ++ [.broken]) := by
  simp [brokenWrite, brokenFrame_wire, shownBytes_wr]

theorem zipWith_take_left {α β γ : Type} (f : α → β → γ) (xs : List α) (ys : List β) :
    List.zipWith f (xs.take ys.length) ys = List.zipWith f xs ys := by
  induction ys generalizing xs with
  | nil => simp
  | cons y ys ih => cases xs with
    | nil => rfl
    | cons x xs => simp [ih]

/-- A failed read on the wire. -/
theorem brokenRead_wire (a n : Nat) (rs : List Byte) (A : List Answer) (D : Nat) (s : State) :
    (brokenRead a n rs A D s).wire =
      s.wire ++ (.select :: List.zipWith .duplex ((readFrame a n).take rs.length) rs ++ [.broken]) := by
  simp [brokenRead, brokenFrame_wire, shownBytes_rd, zipWith_take_left]

/-! ### Any answers -/

/-- Everything a write transaction can do, as states; which it is depends on the answers and the draw counter alone. -/
theorem busWrite_cases (a : Nat) (payload : List Byte) (A : List Answer) (D : Nat) :
    ∃ A' D',
      (∀ s : State, s.answers = A → s.draws = D → busWrite a payload s = .done [] (afterWrite a payload A' D' s)) ∨
      ∃ rs : List Byte, rs.length ≤ payload.length ∧ ∀ s : State, s.answers = A → s.draws = D →
        busWrite a payload s = .failed (.busTransportFailure .wr a rs.length) (brokenWrite a payload rs A' D' s) := by
  obtain ⟨A', D', ⟨r, rs, hl, hc⟩ | ⟨rs, hl, hb⟩⟩ :=
    shiftFrame_cases (Params.writeFlag ||| BitVec.ofNat 8 a) payload A D
  · refine ⟨A', D', .inl fun s hA hD => ?_⟩
    have := hc (startTransaction .wr a payload.length (writeFrame a payload) s) hA hD
    rw [← writeFrame] at this
    simp only [busWrite, this, endTransaction_write A' D' s hl]
  · refine ⟨A', D', .inr ⟨rs, hl, fun s hA hD => ?_⟩⟩
    have := hb (startTransaction .wr a payload.length (writeFrame a payload) s) hA hD
    rw [← writeFrame] at this
    simp only [busWrite, this, brokenWrite]

/-- Everything a read transaction can do, as states; which it is depends on the answers and the draw counter alone. -/
theorem busRead_cases (a n : Nat) (A : List Answer) (D : Nat) :
    ∃ A' D',
      (∃ x bytes, bytes.length = n ∧ ∀ s : State, s.answers = A → s.draws = D →
        busRead a n s = .done bytes (afterRead a n x bytes A' D' s)) ∨
      ∃ rs : List Byte, rs.length ≤ n ∧ ∀ s : State, s.answers = A → s.draws = D →
        busRead a n s = .failed (.busTransportFailure .rd a rs.length) (brokenRead a n rs A' D' s) := by
  obtain ⟨A', D', ⟨r, rs, hl, hc⟩ | ⟨rs, hl, hb⟩⟩ :=
    shiftFrame_cases (BitVec.ofNat 8 a) (List.replicate n Params.readFill) A D
  · have hl' : rs.length = n := by simpa using hl
    refine ⟨A', D', .inl ⟨r, rs, hl', fun s hA hD => ?_⟩⟩
    have := hc (startTransaction .rd a n (readFrame a n) s) hA hD
    rw [← readFrame] at this
    obtain ⟨h1, h2⟩ := captured_read (a := a) (x := r) A' D' s hl'
    simp only [busRead, this, h1, h2]
  · refine ⟨A', D', .inr ⟨rs, by simpa using hl, fun s hA hD => ?_⟩⟩
    have := hb (startTransaction .rd a n (readFrame a n) s) hA hD
    rw [← readFrame] at this
    simp only [busRead, this, brokenRead]

/-- Everything a read into the mirror can do, as states; which it is, and the bytes stored, depend on the answers and
the draw counter alone. -/
theorem pull_cases (a n : Nat) (A : List Answer) (D : Nat) :
    ∃ A' D',
      (∃ x bytes, bytes.length = n ∧ ∀ s : State, s.answers = A → s.draws = D →
        pull a n s = .done bytes { afterRead a n x bytes A' D' s with mirror := s.mirror.writeRange a bytes }) ∨
      ∃ rs : List Byte, rs.length ≤ n ∧ ∀ s : State, s.answers = A → s.draws = D →
        pull a n s = .failed (.busTransportFailure .rd a rs.length) (tear a n (brokenRead a n rs A' D' s)) := by
  obtain ⟨A', D', ⟨x, bytes, hl, hc⟩ | ⟨rs, hl, hb⟩⟩ := busRead_cases a n A D
  · refine ⟨A', D', .inl ⟨x, bytes, hl, fun s hA hD => ?_⟩⟩
    simp only [pull, hc s hA hD]
    rfl
  · exact ⟨A', D', .inr ⟨rs, hl, fun s hA hD => by simp only [pull, hb s hA hD]⟩⟩

/-- What no transaction touches. -/
structure Untouched (s t : State) : Prop where
  mirror : t.mirror = s.mirror
  delay : t.delay = s.delay
  life : t.life = s.life
  err : t.err = s.err
  busy : t.busy = s.busy
  buscfg : t.buscfg = s.buscfg
  resp : t.resp = s.resp
  port : t.port = s.port

/-- The sequencer's fields stay in the ranges of R25. -/
structure SequencerInRange (s t : State) : Prop where
  ptr : t.ptr ≤ 16
  left : t.left ≤ 16
  xbuf : s.xbuf.length = 17 → t.xbuf.length = 17

theorem burstFits_iff (a n : Nat) : burstFits a n = true ↔ a < 16 ∧ a + n ≤ 16 := by
  rw [burstFits, Bool.and_eq_true, decide_eq_true_eq, decide_eq_true_eq]
  rfl

theorem pointer_le {a n m : Nat} (h : burstFits a n = true) (hm : m ≤ n) :
    BitVec.ofNat 5 a + BitVec.ofNat 5 m ≤ 16 ∧ BitVec.ofNat 5 n - BitVec.ofNat 5 m ≤ 16 := by
  obtain ⟨_, _⟩ := (burstFits_iff a n).mp h
  have h16 : (16 : BitVec 5).toNat = 16 := rfl
  constructor
  · rw [BitVec.le_def]
    simp only [BitVec.toNat_add, BitVec.toNat_ofNat, h16]
    omega
  · rw [BitVec.le_def]
    simp only [BitVec.toNat_sub, BitVec.toNat_ofNat, h16]
    omega

/-- The outcome of a write transaction. -/
def WriteOutcome (a : Nat) (payload : List Byte) (s : State) : Tx → Prop
  | .done bytes t =>
      bytes = [] ∧ Untouched s t ∧ SequencerInRange s t ∧ t.cs = .inactive ∧ t.phase = .idle ∧
        t.hist = s.hist ++ [.w a payload] ∧ t.wire = s.wire ++ wireOfWrite a payload
  | .failed c t =>
      ∃ k, k ≤ payload.length ∧ c = .busTransportFailure .wr a k ∧ Untouched s t ∧ SequencerInRange s t ∧
        t.cs = .active ∧ t.hist = s.hist ∧
        t.wire = s.wire ++ (.select :: ((writeFrame a payload).take k).map .sent ++ [.broken])

/-- Everything a write transaction can do, field by field. -/
theorem busWrite_spec {a : Nat} {payload : List Byte} (s : State) (h : burstFits a payload.length = true) :
    WriteOutcome a payload s (busWrite a payload s) := by
  obtain ⟨_, _⟩ := (burstFits_iff _ _).mp h
  obtain ⟨A', D', hc | ⟨rs, hl, hb⟩⟩ := busWrite_cases a payload s.answers s.draws
  · rw [hc s rfl rfl]
    refine ⟨rfl, ⟨rfl, rfl, rfl, rfl, rfl, rfl, rfl, rfl⟩, ⟨?_, ?_, ?_⟩, rfl, rfl, rfl, rfl⟩
    · rw [afterWrite_ptr, BitVec.ofNat_add]
      exact (pointer_le h (Nat.le_refl _)).1
    · simp
    · intro hx
      simp [writeFrame, hx]
      omega
  · rw [hb s rfl rfl]
    obtain ⟨m, hm, hp, hn⟩ := brokenFrame_pointer (writeFrame a payload) rs A' D'
      (startTransaction .wr a payload.length (writeFrame a payload) s)
    obtain ⟨hp', hn'⟩ := pointer_le (m := m) h (by omega)
    refine ⟨rs.length, hl, rfl, ⟨by simp, by simp, by simp, by simp, by simp, by simp, by simp, by simp⟩,
      ⟨?_, ?_, ?_⟩, by simp, by simp, brokenWrite_wire a payload rs A' D' s⟩
    · rw [brokenWrite, hp]
      exact hp'
    · rw [brokenWrite, hn]
      exact hn'
    · intro hx
      rw [brokenWrite, brokenFrame_length_xbuf]
      simp [writeFrame, hx]
      omega

/-- The outcome of a read transaction. -/
def ReadOutcome (a n : Nat) (s : State) : Tx → Prop
  | .done bytes t =>
      bytes.length = n ∧ Untouched s t ∧ SequencerInRange s t ∧ t.cs = .inactive ∧ t.phase = .idle ∧
        t.hist = s.hist ++ [.r a n bytes] ∧ ∃ x, t.wire = s.wire ++ wireOfRead a n (x :: bytes)
  | .failed c t =>
      ∃ k, k ≤ n ∧ c = .busTransportFailure .rd a k ∧ Untouched s t ∧ SequencerInRange s t ∧ t.cs = .active ∧
        t.hist = s.hist ∧ ∃ rs : List Byte, rs.length = k ∧
          t.wire = s.wire ++ (.select :: List.zipWith .duplex ((readFrame a n).take k) rs ++ [.broken])

/-- Everything a read transaction can do, field by field. -/
theorem busRead_spec {a n : Nat} (s : State) (h : burstFits a n = true) : ReadOutcome a n s (busRead a n s) := by
  obtain ⟨_, _⟩ := (burstFits_iff _ _).mp h
  have hlen : (readFrame a n).length = n + 1 := by simp [readFrame]
  obtain ⟨A', D', ⟨x, bytes, hl, hc⟩ | ⟨rs, hl, hb⟩⟩ := busRead_cases a n s.answers s.draws
  · rw [hc s rfl rfl]
    refine ⟨hl, ⟨rfl, rfl, rfl, rfl, rfl, rfl, rfl, rfl⟩, ⟨?_, ?_, ?_⟩, rfl, rfl, rfl, x, rfl⟩
    · rw [afterRead_ptr, BitVec.ofNat_add]
      exact (pointer_le h (Nat.le_refl _)).1
    · simp
    · intro hx
      simp only [afterRead_xbuf, List.length_append, List.length_cons, List.length_drop, hx, hl]
      omega
  · rw [hb s rfl rfl]
    obtain ⟨j, hj, hp, hn⟩ := brokenFrame_pointer (readFrame a n) rs A' D'
      (startTransaction .rd a n (readFrame a n) s)
    obtain ⟨hp', hn'⟩ := pointer_le (m := j) h (by omega)
    refine ⟨rs.length, hl, rfl, ⟨by simp, by simp, by simp, by simp, by simp, by simp, by simp, by simp⟩,
      ⟨?_, ?_, ?_⟩, by simp, by simp, rs, rfl, brokenRead_wire a n rs A' D' s⟩
    · rw [brokenRead, hp]
      exact hp'
    · rw [brokenRead, hn]
      exact hn'
    · intro hx
      rw [brokenRead, brokenFrame_length_xbuf]
      simp [hlen, hx]
      omega

/-- The outcome of a read into the mirror: as the read's, and the mirror takes bytes in the range, be it the device's
(completed) or free ones (failed). -/
def PullOutcome (a n : Nat) (s : State) : Tx → Prop
  | .done bytes t =>
      bytes.length = n ∧ t.mirror = s.mirror.writeRange a bytes ∧ Untouched s { t with mirror := s.mirror } ∧
        SequencerInRange s t ∧ t.cs = .inactive ∧ t.phase = .idle ∧ t.hist = s.hist ++ [.r a n bytes] ∧
        ∃ x, t.wire = s.wire ++ wireOfRead a n (x :: bytes)
  | .failed c t =>
      ∃ k bytes, k ≤ n ∧ c = .busTransportFailure .rd a k ∧ bytes.length = n ∧
        t.mirror = s.mirror.writeRange a bytes ∧ Untouched s { t with mirror := s.mirror } ∧ SequencerInRange s t ∧
        t.cs = .active ∧ t.hist = s.hist ∧ ∃ rs : List Byte, rs.length = k ∧
          t.wire = s.wire ++ (.select :: List.zipWith .duplex ((readFrame a n).take k) rs ++ [.broken])

/-- Everything a read into the mirror can do. -/
theorem pull_spec {a n : Nat} (s : State) (h : burstFits a n = true) : PullOutcome a n s (pull a n s) := by
  have hs := busRead_spec s h
  unfold pull
  cases hr : busRead a n s with
  | done bytes t =>
    simp only [hr, ReadOutcome] at hs
    obtain ⟨hl, hu, hq, hc, hph, hh, hw⟩ := hs
    exact ⟨hl, by simp [hu.mirror], ⟨rfl, hu.delay, hu.life, hu.err, hu.busy, hu.buscfg, hu.resp, hu.port⟩,
      ⟨hq.ptr, hq.left, hq.xbuf⟩, hc, hph, hh, hw⟩
  | failed c t =>
    simp only [hr, ReadOutcome] at hs
    obtain ⟨k, hk, hc, hu, hq, hcs, hh, rs, hrs, hw⟩ := hs
    exact ⟨k, (List.range n).map fun i => Config.tornByte (t.draws + i), hk, hc, by simp, by simp [hu.mirror],
      ⟨rfl, hu.delay, hu.life, hu.err, hu.busy, hu.buscfg, hu.resp, hu.port⟩, ⟨hq.ptr, hq.left, hq.xbuf⟩,
      hcs, hh, rs, hrs, hw⟩

end Sys2Proof.Machine
end

