-- ==== Sys2Proof/Laws/Command.lean ====
section
/-! SUPPORT. The shared pieces of the commands: their guards, going on after a transaction, and the wire written out. -/

namespace Sys2Proof.Machine

@[simp] theorem orRaise_done (bytes : List Byte) (s : State) (b : Bool) (k : State → State) :
    (Tx.done bytes s).orRaise b k = k s := rfl

@[simp] theorem orRaise_failed (c : Cause) (s : State) (b : Bool) (k : State → State) :
    (Tx.failed c s).orRaise b k = raise b c s := rfl

@[simp] theorem orRaiseThen_done (bytes : List Byte) (s : State) (k : State → Host.Outcome State Fault Refusal) :
    (Tx.done bytes s).orRaiseThen k = k s := rfl

@[simp] theorem orRaiseThen_failed (c : Cause) (s : State) (k : State → Host.Outcome State Fault Refusal) :
    (Tx.failed c s).orRaiseThen k = .next (raise false c s) := rfl

theorem whenReady_ready {s : State} (k : State → Host.Outcome State Fault Refusal) (h : s.life = .ready) :
    whenReady s k = k s := by
  simp [whenReady, h]

theorem whenReady_not {s : State} (k : State → Host.Outcome State Fault Refusal) (h : s.life ≠ .ready) :
    whenReady s k = .next (raise false .notConstructed s) := by
  simp [whenReady, h]

theorem whenInRange_in {start : BitVec 4} {count : BitVec 5} (s : State)
    (k : State → Host.Outcome State Fault Refusal) (h : start.toNat + count.toNat ≤ 16) :
    whenInRange start count s k = k s := by
  simp [whenInRange, Params.nreg, h]

theorem whenInRange_out {start : BitVec 4} {count : BitVec 5} (s : State)
    (k : State → Host.Outcome State Fault Refusal) (h : 16 < start.toNat + count.toNat) :
    whenInRange start count s k = .next (raise false (.rangeError (start.setWidth 7) count) s) := by
  have : ¬start.toNat + count.toNat ≤ 16 := by omega
  simp [whenInRange, Params.nreg, this]

@[simp] theorem withValue_some {α : Type} (x : α) (k : α → Host.Outcome State Fault Refusal) :
    withValue (some x) k = k x := rfl

@[simp] theorem withValue_none {α : Type} (k : α → Host.Outcome State Fault Refusal) :
    withValue none k = .fault .mirrorByteWithoutValue := rfl

/-- The exception entry leaves a controller that was between transactions as it was, but for `err`, the response and
the port opened again. -/
theorem raise_of_inactive {s : State} {c : Cause} (b : Bool) (hc : s.cs = .inactive) (hp : s.phase = .idle)
    (he : c.failureEvents = []) (hl : (b && c.endsConstruction) = false) :
    raise b c s = { s with err := c.code, resp := some { status := c.code, rsp := c.info }, busy := false } := by
  simp [raise, hc, hp, he, hl]

/-- Answers heard in two parts. -/
theorem heard_append {s : State} {bytes bytes' : List Byte} {rest : List Answer} :
    Heard s (bytes ++ bytes') rest ↔ Heard s bytes (bytes'.map Answer.reply ++ rest) := by
  simp [Heard]

/-- Answers heard in two parts, the second ending in a failure. -/
theorem heardThenFails_append {s : State} {bytes bytes' : List Byte} {rest : List Answer} :
    HeardThenFails s (bytes ++ bytes') rest ↔ Heard s bytes (bytes'.map Answer.reply ++ .fail :: rest) := by
  simp [Heard, HeardThenFails]

/-- A write on the wire, byte by byte (R92). -/
theorem wireOfWrite_eq (a : Nat) (payload : List Byte) :
    wireOfWrite a payload =
      .select :: .sent (0x80#8 ||| BitVec.ofNat 8 a) :: payload.map .sent ++ [.deselect] := by
  simp [wireOfWrite, writeFrame, Params.writeFlag]

/-- A read on the wire, byte by byte (R93). -/
theorem wireOfRead_eq {n : Nat} (a : Nat) (x : Byte) {bytes : List Byte} (h : bytes.length = n) :
    wireOfRead a n (x :: bytes) =
      .select :: .duplex (BitVec.ofNat 8 a) x :: bytes.map (.duplex 0x00#8) ++ [.deselect] := by
  have hz : ∀ bs : List Byte,
      List.zipWith WireEvent.duplex (List.replicate bs.length (0x00#8 : Byte)) bs = bs.map (WireEvent.duplex 0x00#8) := by
    intro bs
    induction bs with
    | nil => rfl
    | cons b bs ih => simp [List.replicate_succ, ih]
  subst h
  simp [wireOfRead, readFrame, Params.readFill, hz]

/-- The burst of every host command fits once its range check has passed. -/
theorem burstFits_of_range {start : BitVec 4} {n : Nat} (h : start.toNat + n ≤ 16) :
    burstFits start.toNat n = true := by
  have := start.isLt
  exact (burstFits_iff _ _).mpr ⟨by omega, h⟩

theorem burstFits_data : burstFits Params.dataStart Params.dataLen = true := rfl

theorem burstFits_full : burstFits 0 Params.nreg = true := rfl

theorem burstFits_cr0 {n : Nat} (h : n ≤ 16) : burstFits Params.addrCr0 n = true :=
  (burstFits_iff _ _).mpr ⟨by decide, by simpa [Params.addrCr0] using h⟩

/-- The three registers `INIT` pushes are what it has staged (R156, R157). -/
theorem readRange_staged (m : Memory) (c0 c1 c2 : Byte) :
    (((m.write 0 c0).write 1 c1).write 2 c2).readRange 0 3 = some [c0, c1, c2] := by
  simp [Memory.readRange, Memory.read_write]

end Sys2Proof.Machine
end

