-- ==== Sys2Proof/Laws/PerInstr.lean ====
section
/-! SUPPORT. The encoding of every instruction lies in its row of spec/opcode_table.json: under the row's mask it is the
row's match (spec/30_encoding.md R100; for a bus frame, the first byte, R91). -/

namespace Sys2Proof.Laws.EncodesInRow

/-- The mask of the instruction's row. -/
def rowMask : Instr → BitVec 32
  | .init _ _ _ _ _ => 0xF03F0000
  | .rdr _ _ => 0xF007FFFF
  | .wrr _ _ => 0xF007FFFF
  | .rdd => 0xFFFFFFFF
  | .oneshot => 0xFFFFFFFF
  | .temp _ => 0xF7FFFFFF
  | .cjt _ => 0xF7FFFFFF
  | .flt _ => 0xF7FFFFFF
  | .mld _ => 0xF0FFFFFF
  | .mst _ _ => 0xF0FFFF00
  | .busRead _ _ => 0x80
  | .busWrite _ _ => 0x80

/-- The match of the instruction's row. -/
def rowMatch : Instr → BitVec 32
  | .init _ _ _ _ _ => 0x10000000
  | .rdr _ _ => 0x20000000
  | .wrr _ _ => 0x30000000
  | .rdd => 0x40000000
  | .oneshot => 0x50000000
  | .temp _ => 0x60000000
  | .cjt _ => 0x70000000
  | .flt _ => 0x80000000
  | .mld _ => 0x90000000
  | .mst _ _ => 0xA0000000
  | .busRead _ _ => 0x00
  | .busWrite _ _ => 0x80

/-- The bits the table gives a row: the command word, or the first byte of the frame. -/
def rowBits : Request → Option (BitVec 32)
  | .command c => some c
  | .frame [] => none
  | .frame (b :: _) => some (b.setWidth 32)

/-- The instruction's encoding agrees with its row. -/
def Statement (i : Instr) : Prop := (rowBits (encode i)).map (· &&& rowMask i) = some (rowMatch i)

theorem init (tsel : BitVec 4) (cr0v cr1v : Bool) (cr0 cr1 : Byte) : Statement (.init tsel cr0v cr1v cr0 cr1) := by
  have : (0x1#4 ++ tsel ++ BitVec.ofBool cr0v ++ BitVec.ofBool cr1v ++ 0#6 ++ cr0 ++ cr1 : BitVec (4 + 4 + 1 + 1 + 6 + 8 + 8)) &&&
      (0xF#4 ++ 0#4 ++ 0#1 ++ 0#1 ++ 0x3F#6 ++ 0#8 ++ 0#8) = 0x10000000#32 := by
    simp only [BitVec.and_append, BitVec.and_zero]
    rfl
  exact congrArg some this

theorem rdr (start : BitVec 4) (count : BitVec 5) : Statement (.rdr start count) := by
  have : (0x2#4 ++ start ++ count ++ 0#19 : BitVec (4 + 4 + 5 + 19)) &&&
      (0xF#4 ++ 0#4 ++ 0#5 ++ 0x7FFFF#19) = 0x20000000#32 := by
    simp only [BitVec.and_append, BitVec.and_zero]
    rfl
  exact congrArg some this

theorem wrr (start : BitVec 4) (count : BitVec 5) : Statement (.wrr start count) := by
  have : (0x3#4 ++ start ++ count ++ 0#19 : BitVec (4 + 4 + 5 + 19)) &&&
      (0xF#4 ++ 0#4 ++ 0#5 ++ 0x7FFFF#19) = 0x30000000#32 := by
    simp only [BitVec.and_append, BitVec.and_zero]
    rfl
  exact congrArg some this

theorem rdd : Statement .rdd := rfl

theorem oneshot : Statement .oneshot := rfl

theorem temp (r : Bool) : Statement (.temp r) := by cases r <;> rfl

theorem cjt (r : Bool) : Statement (.cjt r) := by cases r <;> rfl

theorem flt (r : Bool) : Statement (.flt r) := by cases r <;> rfl

theorem mld (addr : BitVec 4) : Statement (.mld addr) := by
  have : ∀ a : BitVec 4, (0x9#4 ++ a ++ 0#24 : BitVec 32) &&& 0xF0FFFFFF#32 = 0x90000000#32 := by decide
  exact congrArg some (this addr)

theorem mst (addr : BitVec 4) (data : Byte) : Statement (.mst addr data) := by
  have : (0xA#4 ++ addr ++ 0#16 ++ data : BitVec (4 + 4 + 16 + 8)) &&&
      (0xF#4 ++ 0#4 ++ 0xFFFF#16 ++ 0#8) = 0xA0000000#32 := by
    simp only [BitVec.and_append, BitVec.and_zero]
    rfl
  exact congrArg some this

theorem busRead (a : BitVec 7) (n : BitVec 5) : Statement (.busRead a n) := by
  have : ∀ a : BitVec 7, (BitVec.ofNat 8 a.toNat).setWidth 32 &&& 0x80#32 = 0x00#32 := by decide
  exact congrArg some (this a)

theorem busWrite (a : BitVec 7) (payload : List Byte) : Statement (.busWrite a payload) := by
  have : ∀ a : BitVec 7, (Params.writeFlag ||| BitVec.ofNat 8 a.toNat).setWidth 32 &&& 0x80#32 = 0x80#32 := by decide
  exact congrArg some (this a)

end Sys2Proof.Laws.EncodesInRow
end

