-- ==== Sys2Proof/Laws/Values.lean ====
section
/-! SUPPORT. The values of the small bit-level functions, in the forms claims are written in. -/

namespace Sys2Proof.Machine

/-- Zero extension of a byte, as bits. -/
theorem zextByte_eq (b : Byte) : zextByte b = 0#24 ++ b := by
  apply BitVec.eq_of_toNat_eq
  change (b.setWidth 32).toNat = (0#24 ++ b : BitVec (24 + 8)).toNat
  have := b.isLt
  rw [BitVec.toNat_append, BitVec.toNat_setWidth]
  simp
  omega

/-- The type selector in the information word of code 1 (R200). -/
theorem info_invalidThermocoupleType (tsel : BitVec 4) :
    (Cause.invalidThermocoupleType tsel).info = 0#28 ++ tsel := by
  apply BitVec.eq_of_toNat_eq
  change (tsel.setWidth 32).toNat = (0#28 ++ tsel : BitVec (28 + 4)).toNat
  have := tsel.isLt
  rw [BitVec.toNat_append, BitVec.toNat_setWidth]
  simp
  omega

/-- A failed read in the information word of code 2 (R200), as a number. -/
theorem info_rd {a k : Nat} (ha : a < 16) (hk : k ≤ 16) :
    (Cause.busTransportFailure .rd a k).info = BitVec.ofNat 32 (a * 256 + k) := by
  have : ∀ a : Fin 16, ∀ k : Fin 17,
      (Cause.busTransportFailure .rd a k).info = BitVec.ofNat 32 (a * 256 + k) := by decide +kernel
  exact this ⟨a, ha⟩ ⟨k, by omega⟩

/-- A failed write in the information word of code 2 (R200), as a number: bit 16 is set. -/
theorem info_wr {a k : Nat} (ha : a < 16) (hk : k ≤ 16) :
    (Cause.busTransportFailure .wr a k).info = BitVec.ofNat 32 (0x10000 + a * 256 + k) := by
  have : ∀ a : Fin 16, ∀ k : Fin 17,
      (Cause.busTransportFailure .wr a k).info = BitVec.ofNat 32 (0x10000 + a * 256 + k) := by decide +kernel
  exact this ⟨a, ha⟩ ⟨k, by omega⟩

/-- A host command's start and count in the information word of code 3 (R200). -/
theorem info_rangeError (start : BitVec 4) (count : BitVec 5) :
    (Cause.rangeError (start.setWidth 7) count).info = 0#20 ++ start ++ 0#3 ++ count := by
  have : ∀ a : BitVec 4, (0#17 ++ a.setWidth 7 : BitVec 24) = (0#20 ++ a : BitVec 24) := by decide
  exact congrArg (fun v : BitVec 24 => (v ++ 0#3 ++ count : BitVec 32)) (this start)

/-- The merged CR1 byte (R155), as bits. -/
theorem mergeCr1_eq (avg : Byte) (code : BitVec 4) : mergeCr1 avg code = (avg &&& 0xF0#8) ||| (0#4 ++ code) := by
  have : ∀ c : BitVec 4, c.setWidth 8 = (0#4 ++ c : BitVec 8) := by decide
  rw [mergeCr1, this]

/-- The selectors above 9 name no type (R33, R97). -/
theorem ofSelector_none {tsel : BitVec 4} (h : 9 < tsel.toNat) : Thermocouple.ofSelector tsel = none := by
  have : ∀ t : BitVec 4, 9 < t.toNat → Thermocouple.ofSelector t = none := by decide
  exact this tsel h

/-- The selectors 0 to 9 name one (R33, R97). -/
theorem ofSelector_some {tsel : BitVec 4} (h : tsel.toNat ≤ 9) : ∃ ty, Thermocouple.ofSelector tsel = some ty := by
  have : ∀ t : BitVec 4, t.toNat ≤ 9 → (Thermocouple.ofSelector t).isSome = true := by decide
  exact Option.isSome_iff_exists.mp (this tsel h)

/-- The selector of a recognized type, by the code the spec's table gives it (R33, R97). -/
theorem ofSelector_of_code {tsel code : BitVec 4}
    (h : [0x0#4, 0x1#4, 0x2#4, 0x3#4, 0x4#4, 0x5#4, 0x6#4, 0x7#4, 0x8#4, 0xC#4][tsel.toNat]? = some code) :
    ∃ ty, Thermocouple.ofSelector tsel = some ty ∧ ty.code = code := by
  have : ∀ t : BitVec 4, (Thermocouple.ofSelector t).map Thermocouple.code =
      [0x0#4, 0x1#4, 0x2#4, 0x3#4, 0x4#4, 0x5#4, 0x6#4, 0x7#4, 0x8#4, 0xC#4][t.toNat]? := by decide
  exact Option.map_eq_some_iff.mp ((this tsel).trans h)

end Sys2Proof.Machine
end

