-- ==== Sys2Proof/Tests/Slice0.lean ====
section
/-! SUPPORT. The model's own tests. Expected results are taken from spec/95_test_vectors.md (the vector is named in each
docstring) or computed by hand from the rule named. The `witness_…` theorems show, for each obligation with hypotheses,
states and operands that meet them together. -/

namespace Sys2Proof.Tests

open Sys2Proof Sys2Proof.Machine

/-! ### Helpers -/

/-- A mirror from its 16 bytes. -/
def mirrorOf (bytes : List Byte) : Memory := Memory.writeRange [] 0 bytes

/-- The mirror at the end of program P1. -/
def p1Mirror : List Byte :=
  [0x93, 0x43, 0x00, 0xA3, 0xA4, 0xA5, 0xA6, 0xA7, 0xA8, 0xA9, 0x19, 0x00, 0x01, 0x90, 0x00, 0x00]

/-- A constructed controller with this mirror, whose environment will give these answers. -/
def readyWith (bytes : List Byte) (answers : List Answer) : State :=
  { State.reset with
    mirror := mirrorOf bytes
    life := .ready
    buscfg := { configured := true, clockHz := 0, cpol := 0, cpha := 0 }
    answers := answers }

/-- The end of program P1. -/
def ready (answers : List Answer) : State := readyWith p1Mirror answers

/-- A controller between reset and `INIT`. -/
def fresh (answers : List Answer) : State := { State.reset with answers := answers }

/-- The bytes the stub of P1 holds. -/
def p1Device : List Byte :=
  [0xA0, 0xA1, 0xA2, 0xA3, 0xA4, 0xA5, 0xA6, 0xA7, 0xA8, 0xA9, 0x19, 0x00, 0x01, 0x90, 0x00, 0x00]

/-- All exchanges of an `INIT` that reads the stub, pushes four bytes and reads back `c0 c1 00`. -/
def initAnswers (c0 c1 : Byte) : List Answer :=
  ((0x00#8 :: p1Device) ++ [0x00, 0x00, 0x00, 0x00] ++ [0x00, c0, c1, 0x00]).map .reply

/-- Look at the state after a step that went on. -/
def after {α : Type} (o : Host.Outcome State Fault Refusal) (look : State → α) : Option α :=
  match o with
  | .next s => some (look s)
  | .fault _ => none
  | .refused _ => none

/-- A step at which something can be seen is one that went on. -/
theorem next_of_after {α : Type} {o : Host.Outcome State Fault Refusal} {look : State → α} {x : α}
    (h : after o look = some x) : ∃ t, o = .next t ∧ look t = x := by
  cases o with
  | next s => exact ⟨s, rfl, Option.some.inj h⟩
  | fault r => exact absurd h nofun
  | refused r => exact absurd h nofun

/-- The response of a step. -/
def response (o : Host.Outcome State Fault Refusal) : Option (Option Response) := after o State.resp

/-! ### WellFormed refuses ill-formed terms -/

/-- Address byte 0x10 and above names no register (R91, R102). -/
theorem test_wf_read_address : (Instr.busRead 0x10 0).wellFormed = false := by decide

/-- `a + n <= 16` (R125). -/
theorem test_wf_read_overrun : (Instr.busRead 0x0F 2).wellFormed = false := by decide

/-- Address byte 0x7F names no register (R91, R102). -/
theorem test_wf_write_address : (Instr.busWrite 0x7F []).wellFormed = false := by decide

/-- `a + n <= 16` (R121). -/
theorem test_wf_write_overrun : (Instr.busWrite 0x0E [1, 2, 3]).wellFormed = false := by decide

/-- The highest legal frames (B4, B9). -/
theorem test_wf_last : (Instr.busWrite 0x0F [0]).wellFormed = true ∧ (Instr.busRead 0x0F 1).wellFormed = true := by decide

/-! ### Decoding: words written out from R96, frames from R91 to R93 -/

/-- E1: `INIT K`; 0001 0011 0 0 000000 then two zero bytes. -/
theorem test_decode_init : decodeCommand 0b00010011000000000000000000000000#32 = .ok (.init 3 false false 0 0) := by rfl

/-- E2: `INIT J, cr0=0x11, avg=0x20`; 0001 0010 1 1 000000 00010001 00100000. -/
theorem test_decode_init_overrides :
    decodeCommand 0b00010010110000000001000100100000#32 = .ok (.init 2 true true 0x11 0x20) := by rfl

/-- E5: `INIT T, avg=0x20`: bit 22 is `cr1v`. -/
theorem test_decode_init_avg : decodeCommand 0x17400020#32 = .ok (.init 7 false true 0x00 0x20) := by rfl

/-- E7: `RDR 0x0A, 6`; 0010 1010 00110 and 19 zeros. -/
theorem test_decode_rdr : decodeCommand 0b00101010001100000000000000000000#32 = .ok (.rdr 0xA 6) := by rfl

/-- E6: `RDR 0x00, 16`. -/
theorem test_decode_rdr_full : decodeCommand 0x20800000#32 = .ok (.rdr 0 16) := by rfl

/-- E12: `WRR 0x00, 3`; 0011 0000 00011 and 19 zeros. -/
theorem test_decode_wrr : decodeCommand 0b00110000000110000000000000000000#32 = .ok (.wrr 0 3) := by rfl

/-- E16: `RDD`. -/
theorem test_decode_rdd : decodeCommand 0x40000000#32 = .ok .rdd := by rfl

/-- E17: `ONESHOT`. -/
theorem test_decode_oneshot : decodeCommand 0x50000000#32 = .ok .oneshot := by rfl

/-- E18: `TEMP`, `r` is bit 27. -/
theorem test_decode_temp :
    decodeCommand 0x60000000#32 = .ok (.temp false) ∧ decodeCommand 0x68000000#32 = .ok (.temp true) := ⟨rfl, rfl⟩

/-- E19: `CJT`. -/
theorem test_decode_cjt :
    decodeCommand 0x70000000#32 = .ok (.cjt false) ∧ decodeCommand 0x78000000#32 = .ok (.cjt true) := ⟨rfl, rfl⟩

/-- E20: `FLT`. -/
theorem test_decode_flt :
    decodeCommand 0x80000000#32 = .ok (.flt false) ∧ decodeCommand 0x88000000#32 = .ok (.flt true) := ⟨rfl, rfl⟩

/-- E21: `MLD 0x0F`. -/
theorem test_decode_mld : decodeCommand 0x9F000000#32 = .ok (.mld 0xF) := by rfl

/-- E24: `MST 0x03, 0x55`. -/
theorem test_decode_mst : decodeCommand 0xA3000055#32 = .ok (.mst 3 0x55) := by rfl

/-- E25, E26, X5: opcodes 0x0, 0xB and 0xF. -/
theorem test_decode_illegal_opcode :
    decodeCommand 0x00000000#32 = .error .illegalOpcode ∧ decodeCommand 0xB0000000#32 = .error .illegalOpcode ∧
      decodeCommand 0xF0000000#32 = .error .illegalOpcode := ⟨rfl, rfl, rfl⟩

/-- E27, E28, E29: reserved bits. -/
theorem test_decode_reserved :
    decodeCommand 0x40000001#32 = .error .reservedBit ∧ decodeCommand 0x64000000#32 = .error .reservedBit ∧
      decodeCommand 0x91000001#32 = .error .reservedBit := ⟨rfl, rfl, rfl⟩

/-- B1 and B5: write frames. -/
theorem test_decode_bus_write :
    decodeFrame [0x80#8, 0x93#8, 0x43#8, 0x00#8] = .ok (.busWrite 0 [0x93, 0x43, 0x00]) ∧
      decodeFrame [0x85#8] = .ok (.busWrite 5 []) := by decide

/-- B8 and B10: read frames. -/
theorem test_decode_bus_read :
    decodeFrame [0x00#8, 0x00#8, 0x00#8, 0x00#8] = .ok (.busRead 0 3) ∧
      decodeFrame [0x05#8] = .ok (.busRead 5 0) := by decide

/-- R93: a read frame's data bytes are placeholders; R91: a frame has its address byte. -/
theorem test_decode_bad_frames :
    decodeFrame [0x0A#8, 0x01#8] = .error .notPlaceholder ∧ decodeFrame [] = .error .emptyFrame ∧
      decodeFrame (0x80#8 :: List.replicate 17 0#8) = .error .frameTooLong := by decide

/-- E13 and B6 the other way: the encoder. -/
theorem test_encode :
    encode (.wrr 0 1) = .command 0x30080000#32 ∧ encode (.busRead 0 16) = .frame (List.replicate 17 0x00#8) := by decide

/-- The table's 8-bit rows, and a 32-bit row. -/
theorem test_decode_table_word :
    decodeTableWord 8 0x80 = some (.busWrite 0 []) ∧ decodeTableWord 8 0x05 = some (.busRead 5 0) ∧
      decodeTableWord 32 0x9F000000 = some (.mld 0xF) ∧ decodeTableWord 32 0x00000000 = none := by decide

/-- E2, E4, E6, E18, E24, B4: the written forms (R103). -/
theorem test_assembly :
    assembly (.init 2 true true 0x11 0x20) = "INIT J, cr0=0x11, avg=0x20" ∧ assembly (.init 12 false false 0 0) = "INIT #12" ∧
      assembly (.rdr 0 16) = "RDR 0x00, 16" ∧ assembly (.temp true) = "TEMP r=1" ∧
      assembly (.mst 3 0x55) = "MST 0x03, 0x55" ∧ assembly (.busWrite 0xF [0]) = "8F 00" := by decide +kernel

/-! ### `INIT` -/

/-- P1, step 1: the mirror ends as the bytes read back over those first read, and the history shows three
transactions. -/
theorem test_init_k :
    after (exec (.init 3 false false 0 0) (fresh (initAnswers 0x93 0x43))) (fun t => (t.mirror, t.life, t.hist.length)) =
      some (mirrorOf p1Mirror, .ready, 3) := by decide +kernel

/-- I11 and I13: the caller's CR0 verbatim, the caller's averaging nibble with the type's code; I10: `VG32` is 0xC. -/
theorem test_init_values :
    (chosenCr0 true 0x11, mergeCr1 (chosenAvg true 0x20) Thermocouple.J.code) = (0x11#8, 0x22#8) ∧
      mergeCr1 (chosenAvg true 0xF0) Thermocouple.K.code = 0xF3#8 ∧
      (chosenCr0 false 0x11, mergeCr1 (chosenAvg false 0x20) Thermocouple.VG32.code) = (0x93#8, 0x4C#8) := by decide

/-! ### `RDR`, `WRR`, `RDD` -/

/-- P4, step 4: a read of two bytes at 0x02 replaces what was staged at 0x03. -/
theorem test_rdr :
    after (exec (.rdr 2 2) (ready ([0x00#8, 0xFF#8, 0xA3#8].map .reply))) (fun t => (t.mirror.read 2, t.mirror.read 3, t.hist)) =
      some (some 0xFF#8, some 0xA3#8, [.r 2 2 [0xFF, 0xA3]]) := by decide +kernel

/-- X1: `RDR 0x0F, 2`. -/
theorem test_rdr_range : response (exec (.rdr 0xF 2) (ready [])) = some (some { status := 3, rsp := 0x00000F02 }) := by
  decide +kernel

/-- B1, P4: `WRR 0x00, 3` sends `80 93 43 00`. -/
theorem test_wrr :
    after (exec (.wrr 0 3) (ready ([0x11#8, 0x22#8, 0x33#8, 0x44#8].map .reply))) (fun t => (sentBytes t.wire, t.hist)) =
      some ([0x80, 0x93, 0x43, 0x00], [.w 0 [0x93, 0x43, 0x00]]) := by decide +kernel

/-- X8: `WRR 0x00, 3`, the transport fails at frame byte 0. -/
theorem test_wrr_fails :
    after (exec (.wrr 0 3) (ready [.fail])) (fun t => (t.resp, t.hist, t.cs)) =
      some (some { status := 2, rsp := 0x00010000 }, [.f .wr 0 0], .inactive) := by decide +kernel

/-- P5, step 3: `RDD`. -/
theorem test_rdd :
    after (exec .rdd (ready ([0x00#8, 0x19#8, 0x01#8, 0x02#8, 0x90#8, 0x03#8, 0x04#8].map .reply)))
        (fun t => (t.mirror.readRange 9 7, t.resp)) =
      some (some [0xA9, 0x19, 0x01, 0x02, 0x90, 0x03, 0x04], some { status := 0, rsp := 0 }) := by decide +kernel

/-- X7: `RDD`, the transport fails at frame byte 3, after `0A 00 00` have been sent. -/
theorem test_rdd_fails :
    after (exec .rdd (ready [.reply 1, .reply 2, .reply 3, .fail])) (fun t => (t.resp, t.hist, sentBytes t.wire)) =
      some (some { status := 2, rsp := 0x00000A03 }, [.f .rd 0xA 3], [0x0A, 0x00, 0x00]) := by decide +kernel

/-! ### `ONESHOT` -/

/-- O1, P3 step 1: CR0 0x93 becomes 0x53 and is pushed; the six data bytes are read. -/
theorem test_oneshot :
    after (exec .oneshot (ready ([0x00#8, 0x00#8, 0x00#8, 0xF7#8, 0x00#8, 0xFF#8, 0xF0#8, 0x00#8, 0x11#8].map .reply)))
        (fun t => (t.mirror, t.hist)) =
      some (mirrorOf [0x53, 0x43, 0x00, 0xA3, 0xA4, 0xA5, 0xA6, 0xA7, 0xA8, 0xA9, 0xF7, 0x00, 0xFF, 0xF0, 0x00, 0x11],
        [.w 0 [0x53], .r 0xA 6 [0xF7, 0x00, 0xFF, 0xF0, 0x00, 0x11]]) := by decide +kernel

/-- O3 to O6: the CR0 update. -/
theorem test_oneshot_cr0 :
    [0x00#8, 0xFF#8, 0x91#8, 0x80#8].map oneShotCr0 = [0x40#8, 0x7F#8, 0x51#8, 0x40#8] := by decide

/-! ### The decoders -/

/-- P3, step 2: the status byte is the low byte of the `TEMP` word. -/
theorem test_temp :
    response (exec (.temp false) (readyWith (p1Mirror.take 12 ++ [0xFF, 0xF0, 0x00, 0x11]) [])) =
      some (some { status := 0, rsp := 0xFFF00011 }) := by decide +kernel

/-- X4: `TEMP` before `INIT`. -/
theorem test_temp_uninit : response (exec (.temp false) State.reset) = some (some { status := 5, rsp := 0 }) := by
  decide +kernel

/-- J2: `CJT` extends the sign. -/
theorem test_cjt :
    response (exec (.cjt false) (readyWith (p1Mirror.take 10 ++ [0xF7, 0x00, 0x00, 0x00, 0x00, 0x00]) [])) =
      some (some { status := 0, rsp := 0xFFFFF700 }) := by decide +kernel

/-- J11: byte order, with the bytes of the refresh. -/
theorem test_cjt_refresh :
    response (exec (.cjt true) (ready ([0x00#8, 0x00#8, 0x19#8, 0x00#8, 0x00#8, 0x00#8, 0x00#8].map .reply))) =
      some (some { status := 0, rsp := 0x00000019 }) := by decide +kernel

/-- F4, S5: status byte 0x11. -/
theorem test_flt :
    response (exec (.flt false) (readyWith (p1Mirror.take 15 ++ [0x11]) [])) = some (some { status := 0, rsp := 0x11 }) ∧
      describe "; " 0x11#8 = "open; cjlow" := by decide +kernel

/-- F7, F8: the order of the names. -/
theorem test_flt_description :
    describe "," 0x28#8 = "tchigh,cjhigh" ∧
      describe "," 0xFF#8 = "open,ovuv,tclow,tchigh,cjlow,cjhigh,tcrange,cjrange" := by decide +kernel

/-! ### `MLD`, `MST` -/

/-- P2, step 4, with P1's mirror: `MLD 0x01`. -/
theorem test_mld : response (exec (.mld 1) (ready [])) = some (some { status := 0, rsp := 0x00000043 }) := by decide +kernel

/-- P4, step 1: `MST 0x02, 0xFF`. -/
theorem test_mst :
    after (exec (.mst 2 0xFF) (ready [])) (fun t => (t.mirror.read 2, t.mirror.read 1, t.mirror.read 3, t.hist)) =
      some (some 0xFF#8, some 0x43#8, some 0xA3#8, []) := by decide +kernel

/-! ### The bus frames -/

/-- B9: the captured byte stands behind the one received during the address byte. -/
theorem test_bus_read :
    after (exec (.busRead 0xF 1) (ready [.reply 0x77, .reply 0x12])) (fun t => (t.hist, t.xbuf.take 2, t.mirror.read 0xF)) =
      some ([.r 0xF 1 [0x12]], [0x77, 0x12], some 0x00#8) := by decide +kernel

/-- B2: the frame on the wire, between select and deselect. -/
theorem test_bus_write :
    after (exec (.busWrite 0 [0x53]) (ready [.reply 0x77, .reply 0x12])) (fun t => (t.wire, t.hist, t.ptr, t.left)) =
      some ([.select, .sent 0x80, .sent 0x53, .deselect], [.w 0 [0x53]], 1, 0) := by decide +kernel

/-! ### The port -/

/-- X6: an illegal word outranks `NotConstructed`. -/
theorem test_illegal_word :
    response (step (State.reset.withFetchWord 32 0x0F000000)) = some (some { status := 4, rsp := 0x0F000000 }) := by
  decide +kernel

/-- The first step after reset runs what `withFetchWord` presents: `MST` before `INIT` (R205). -/
theorem test_fetch :
    response (step (State.reset.withFetchWord 32 0xA20000FF)) = some (some { status := 5, rsp := 0 }) := by decide +kernel

/-- R230: the reset input forgets the mirror. -/
theorem test_reset_input :
    after (step { ready [] with port := [.reset] }) (fun t => (t.mirror, t.life, t.buscfg.configured)) =
      some ([], .uninit, false) := by decide +kernel

/-- The memory after reset is canonical. -/
theorem test_reset_memory : State.reset.mirror.wf := by decide

/-! ### Witnesses: the hypotheses of each obligation can be met -/

/-- Six data bytes and the byte before them. -/
def sevenBytes : List Byte := [0x00, 0x19, 0x00, 0x01, 0x90, 0x00, 0x00]

/-- A read that fails at its first, or after its last, byte is a boundary of the failure statements. -/
def failingAfter (bytes : List Byte) : List Answer := bytes.map .reply ++ .fail :: []

theorem ready_quiescent (answers : List Answer) : Quiescent (ready answers) := ⟨rfl, rfl, rfl, rfl⟩

theorem witness_ResetInputLeavesResetValues : ∃ s : State, s.port = .reset :: [] :=
  ⟨{ ready [] with port := [.reset] }, rfl⟩

theorem witness_PortWaitsWhenIdleOrBusy :
    State.reset.port = [] ∧
      ∃ s : State, s.port = .request (.command 0x50000000#32) :: [] ∧ s.busy = true :=
  ⟨rfl, { ready [] with port := [.request (.command 0x50000000#32)], busy := true }, rfl, rfl⟩

theorem witness_StepRunsDecodedInstruction :
    ∃ s : State, s.port = .request (.command 0x50000000#32) :: [] ∧ s.busy = false ∧
      decode (.command 0x50000000#32) = .ok .oneshot :=
  ⟨{ ready [] with port := [.request (.command 0x50000000#32)] }, rfl, rfl, rfl⟩

theorem witness_IllegalWordRaisesIllegalCommand :
    ∃ s : State, s.port = .request (.command 0xB0000000#32) :: [] ∧ Quiescent s ∧
      decodeCommand 0xB0000000#32 = .error .illegalOpcode :=
  ⟨{ ready [] with port := [.request (.command 0xB0000000#32)] }, rfl, ⟨rfl, rfl, rfl, rfl⟩, rfl⟩

theorem witness_CommandWordsDecodeByTheirRow :
    decodeFrame (0x7F#8 :: [0x00#8]) = .ok (.busRead 0x7F 1) ∧ decodeFrame (0x80#8 :: []) = .ok (.busWrite 0 []) := by decide

theorem witness_DecodeOfEncodeIsIdentity :
    (Instr.busWrite 0x0F [0x00]).wellFormed = true ∧ (Instr.busRead 0x00 16).wellFormed = true ∧
      (Instr.init 15 true true 0xFF 0xFF).wellFormed = true := by decide

theorem witness_EncodeOfDecodeIsIdentity :
    decode (.command 0x12C01120#32) = .ok (.init 2 true true 0x11 0x20) ∧
      decode (.frame [0xFF#8]) = .ok (.busWrite 0x7F []) := ⟨rfl, by decide⟩

theorem witness_NotConstructedRefusesEveryCommandButInit :
    needsReady (.mst 0xF 0xFF) = true ∧ State.reset.life ≠ .ready ∧ Quiescent State.reset :=
  ⟨rfl, by decide, ⟨rfl, rfl, rfl, rfl⟩⟩

theorem witness_RangeErrorRefusesOverrun :
    (ready []).life = .ready ∧ Quiescent (ready []) ∧ 16 < (0xF : BitVec 4).toNat + (2 : BitVec 5).toNat ∧
      16 < (0x0 : BitVec 4).toNat + (17 : BitVec 5).toNat := ⟨rfl, ready_quiescent [], by decide, by decide⟩

theorem witness_FramesOutsideTheRegistersAreTurnedAway :
    Quiescent (ready []) ∧ 16 ≤ (0x10 : BitVec 7).toNat ∧ 16 < (0x0F : BitVec 7).toNat + (2 : BitVec 5).toNat ∧
      16 < (0x0E : BitVec 7).toNat + [0x01#8, 0x02#8, 0x03#8].length :=
  ⟨ready_quiescent [], by decide, by decide, by decide⟩

theorem witness_ByteWithoutValueFaults :
    let s := readyWith [] []
    s.life = .ready ∧ s.mirror.read (0xF : BitVec 4).toNat = none ∧
      (0 : BitVec 4).toNat + (16 : BitVec 5).toNat ≤ 16 ∧ s.mirror.readRange (0 : BitVec 4).toNat (16 : BitVec 5).toNat = none ∧
      (0xF : BitVec 4).toNat + (1 : BitVec 5).toNat ≤ 16 ∧ s.mirror.readRange (0xF : BitVec 4).toNat (1 : BitVec 5).toNat = none ∧
      s.mirror.read 0x00 = none ∧ s.mirror.lt32 = none ∧ s.mirror.cjt = none ∧ s.mirror.flt = none := by decide

theorem witness_BusWriteSendsItsFrame :
    (0x0F : BitVec 7).toNat < 16 ∧ (0x0F : BitVec 7).toNat + [0xAA#8].length ≤ 16 ∧
      [0x00#8, 0x00#8].length = [0xAA#8].length + 1 ∧
      Heard (ready [.reply 0x00, .reply 0x00, .fail]) [0x00, 0x00] [.fail] ∧ [0x00#8].length ≤ [0xAA#8].length ∧
      HeardThenFails (ready (failingAfter [0x00])) [0x00] [] := ⟨by decide, by decide, rfl, rfl, by decide, rfl⟩

theorem witness_BusReadCapturesItsBytes :
    (0x0A : BitVec 7).toNat < 16 ∧ (0x0A : BitVec 7).toNat + (6 : BitVec 5).toNat ≤ 16 ∧
      sevenBytes.tail.length = (6 : BitVec 5).toNat ∧ Heard (ready (sevenBytes.map .reply)) (0x00 :: sevenBytes.tail) [] ∧
      sevenBytes.tail.length ≤ (6 : BitVec 5).toNat ∧ HeardThenFails (ready (failingAfter sevenBytes.tail)) sevenBytes.tail [] :=
  ⟨by decide, by decide, rfl, rfl, by decide, rfl⟩

theorem witness_WrrPushesTheMirrorRange :
    (ready [.reply 0x01, .reply 0x02]).life = .ready ∧ (0xF : BitVec 4).toNat + (1 : BitVec 5).toNat ≤ 16 ∧
      (ready [.reply 0x01, .reply 0x02]).mirror.readRange (0xF : BitVec 4).toNat (1 : BitVec 5).toNat = some [0x00] ∧
      [0x01#8, 0x02#8].length = (1 : BitVec 5).toNat + 1 ∧ Heard (ready [.reply 0x01, .reply 0x02]) [0x01, 0x02] [] :=
  ⟨rfl, by decide, by decide, rfl, rfl⟩

theorem witness_RdrPullsIntoTheMirrorRange :
    (ready ((0x00#8 :: p1Device).map .reply)).life = .ready ∧ (0 : BitVec 4).toNat + (16 : BitVec 5).toNat ≤ 16 ∧
      p1Device.length = (16 : BitVec 5).toNat ∧ Heard (ready ((0x00#8 :: p1Device).map .reply)) (0x00 :: p1Device) [] :=
  ⟨rfl, by decide, rfl, by simp [Heard, ready, readyWith]⟩

theorem witness_RdrStoresEachByteAtItsAddress :
    (ready [.reply 0x00, .reply 0x12]).life = .ready ∧ (0xF : BitVec 4).toNat + (1 : BitVec 5).toNat ≤ 16 ∧
      [0x12#8].length = (1 : BitVec 5).toNat ∧ Heard (ready [.reply 0x00, .reply 0x12]) (0x00 :: [0x12]) [] ∧
      0 < (1 : BitVec 5).toNat ∧ 0xE < (0xF : BitVec 4).toNat ∧ (0xF : BitVec 4).toNat + (1 : BitVec 5).toNat ≤ 16 :=
  ⟨rfl, by decide, rfl, rfl, by decide, by decide, by decide⟩

theorem witness_RddRefreshesTheDataRegisters :
    (ready (sevenBytes.map .reply)).life = .ready ∧
      Heard (ready (sevenBytes.map .reply)) [0x00, 0x19, 0x00, 0x01, 0x90, 0x00, 0x00] [] := ⟨rfl, rfl⟩

theorem witness_MldReturnsTheMirrorByte :
    (ready []).life = .ready ∧ (ready []).mirror.read (0x0 : BitVec 4).toNat = some 0x93 ∧
      (ready []).mirror.read (0xF : BitVec 4).toNat = some 0x00 ∧ ∃ t, exec (.mld 0) State.reset = .next t :=
  ⟨rfl, by decide, by decide, _, rfl⟩

theorem witness_MstStoresTheMirrorByte :
    (ready []).life = .ready ∧ (∃ t, exec (.mst 0xF 0xFF) (ready []) = .next t) ∧
      ∃ t, exec (.mst 0 0) State.reset = .next t := ⟨rfl, ⟨_, rfl⟩, _, rfl⟩

theorem witness_InitConstructsTheController :
    [0x0#4, 0x1#4, 0x2#4, 0x3#4, 0x4#4, 0x5#4, 0x6#4, 0x7#4, 0x8#4, 0xC#4][(9 : BitVec 4).toNat]? = some 0xC#4 ∧
      p1Device.length = 16 ∧ [0x00#8, 0x00#8, 0x00#8, 0x00#8].length = 4 ∧
      [0x93#8, 0x4C#8, 0x00#8].length = 3 ∧
      Heard (fresh (initAnswers 0x93 0x4C)) ((0x00 :: p1Device) ++ [0x00, 0x00, 0x00, 0x00] ++ (0x00 :: [0x93, 0x4C, 0x00]))
        [] := ⟨rfl, rfl, rfl, rfl, by simp [Heard, fresh, initAnswers]⟩

theorem witness_InitRejectsUnrecognizedTypes :
    9 < (10 : BitVec 4).toNat ∧ 9 < (15 : BitVec 4).toNat ∧ p1Device.length = 16 ∧
      Heard (fresh ((0x00#8 :: p1Device).map .reply)) (0x00 :: p1Device) [] ∧
      ∃ t, exec (.init 12 false false 0 0) (fresh ((0x00#8 :: p1Device).map .reply)) = .next t ∧ t.err = 1 :=
  ⟨by decide, by decide, rfl, by simp [Heard, fresh], _, rfl, rfl⟩

theorem witness_ExceptionsComeOnlyFromTheirCauses :
    (∃ t, exec (.init 12 false false 0 0) (fresh ((0x00#8 :: p1Device).map .reply)) = .next t ∧ t.err = 1) ∧
      (∃ t, exec .rdd (ready [.fail]) = .next t ∧ t.err = 2) ∧ (∃ t, exec (.rdr 0xF 2) (ready []) = .next t ∧ t.err = 3) ∧
      ∃ t, exec (.mld 0) State.reset = .next t ∧ t.err = 5 :=
  ⟨⟨_, rfl, rfl⟩, ⟨_, rfl, rfl⟩, ⟨_, rfl, rfl⟩, _, rfl, rfl⟩

theorem witness_InitFailsOnABrokenTransaction :
    [0x0#4, 0x1#4, 0x2#4, 0x3#4, 0x4#4, 0x5#4, 0x6#4, 0x7#4, 0x8#4, 0xC#4][(3 : BitVec 4).toNat]? = some 0x3#4 ∧
      p1Device.length = 16 ∧ [0x00#8, 0x00#8, 0x00#8, 0x00#8].length = 4 ∧
      HeardThenFails (fresh (failingAfter p1Device)) p1Device [] ∧
      HeardThenFails (fresh (failingAfter ((0x00 :: p1Device) ++ [0x00, 0x00, 0x00])))
        ((0x00 :: p1Device) ++ [0x00, 0x00, 0x00]) [] ∧
      HeardThenFails (fresh (failingAfter ((0x00 :: p1Device) ++ [0x00, 0x00, 0x00, 0x00] ++ [0x00, 0x93, 0x43])))
        ((0x00 :: p1Device) ++ [0x00, 0x00, 0x00, 0x00] ++ [0x00, 0x93, 0x43]) [] ∧
      p1Device.length ≤ 16 ∧ [0x00#8, 0x93#8, 0x43#8].length ≤ 3 ∧
      Thermocouple.ofSelector 12 = none ∧ ([] : List Byte).length ≤ 16 ∧ HeardThenFails (fresh [.fail]) [] [] ∧
      response (exec (.init 12 false false 0 0) (fresh [.fail])) = some (some { status := 2, rsp := 0 }) :=
  ⟨rfl, rfl, rfl, rfl, rfl, rfl, by decide, by decide, rfl, by decide, rfl, by decide +kernel⟩

/-- The answers of a `ONESHOT` that completes. -/
def oneShotAnswers : List Answer := ([0x00#8, 0x00#8] ++ sevenBytes).map .reply

theorem witness_OneShotTriggersAndReads :
    (ready oneShotAnswers).life = .ready ∧ (ready oneShotAnswers).mirror.read 0 = some 0x93 ∧ [0x00#8, 0x00#8].length = 2 ∧
      Heard (ready oneShotAnswers) ([0x00, 0x00] ++ [0x00, 0x19, 0x00, 0x01, 0x90, 0x00, 0x00]) [] :=
  ⟨rfl, by decide, rfl, rfl⟩

theorem witness_OneShotIsStagePushRefresh :
    ∃ s1 s2 s3, (ready oneShotAnswers).life = .ready ∧ (ready oneShotAnswers).mirror.read 0 = some 0x93 ∧
      exec (.mst 0 ((0x93#8 &&& 0x7F#8) ||| 0x40#8)) (ready oneShotAnswers) = .next s1 ∧ exec (.wrr 0 1) s1 = .next s2 ∧
      s2.err = 0 ∧ exec .rdd s2 = .next s3 := ⟨_, _, _, rfl, by decide, rfl, rfl, rfl, rfl⟩

theorem witness_OneShotStopsAfterABrokenPush :
    (ready (failingAfter [0x00])).life = .ready ∧ (ready (failingAfter [0x00])).mirror.read 0 = some 0x93 ∧
      [0x00#8].length ≤ 1 ∧ HeardThenFails (ready (failingAfter [0x00])) [0x00] [] := ⟨rfl, by decide, by decide, rfl⟩

theorem witness_OneShotReportsABrokenRead :
    let s := ready (failingAfter [0x00, 0x00, 0x00, 0x19, 0x00])
    s.life = .ready ∧ s.mirror.read 0 = some 0x93 ∧ [0x00#8, 0x00#8].length = 2 ∧ [0x00#8, 0x19#8, 0x00#8].length ≤ 6 ∧
      HeardThenFails s ([0x00, 0x00] ++ [0x00, 0x19, 0x00]) [] := ⟨rfl, by decide, rfl, by decide, rfl⟩

theorem witness_RdrReportsABrokenRead :
    (ready (failingAfter [0x00])).life = .ready ∧ (0xF : BitVec 4).toNat + (1 : BitVec 5).toNat ≤ 16 ∧
      [0x00#8].length ≤ (1 : BitVec 5).toNat ∧ HeardThenFails (ready (failingAfter [0x00])) [0x00] [] :=
  ⟨rfl, by decide, by decide, rfl⟩

theorem witness_WrrReportsABrokenWrite :
    (ready (failingAfter [])).life = .ready ∧ (0 : BitVec 4).toNat + (3 : BitVec 5).toNat ≤ 16 ∧
      (ready (failingAfter [])).mirror.readRange (0 : BitVec 4).toNat (3 : BitVec 5).toNat = some [0x93, 0x43, 0x00] ∧
      ([] : List Byte).length ≤ (3 : BitVec 5).toNat ∧ HeardThenFails (ready (failingAfter [])) [] [] :=
  ⟨rfl, by decide, by decide, by decide, rfl⟩

theorem witness_TempReturnsTheThermocoupleWord :
    (ready []).life = .ready ∧ (ready []).mirror.read 0x0C = some 0x01 ∧ (ready []).mirror.read 0x0D = some 0x90 ∧
      (ready []).mirror.read 0x0E = some 0x00 ∧ (ready []).mirror.read 0x0F = some 0x00 := by decide

theorem witness_CjtReturnsTheColdJunctionWord :
    (ready []).life = .ready ∧ (ready []).mirror.read 0x0A = some 0x19 ∧ (ready []).mirror.read 0x0B = some 0x00 := by
  decide

theorem witness_FltReturnsTheStatusByte :
    (ready []).life = .ready ∧ (ready []).mirror.read 0x0F = some 0x00 := by decide

theorem witness_RefreshIsRddThenDecode :
    (∃ t, exec .rdd (ready (sevenBytes.map .reply)) = .next t ∧ t.err = 0) ∧
      (∃ t, exec .rdd (ready [.fail]) = .next t ∧ t.err ≠ 0) ∧ (∃ t, exec (.temp false) (ready []) = .next t) ∧
      (∃ t, exec (.cjt false) (ready []) = .next t) ∧ (∃ t, exec (.flt false) (ready []) = .next t) ∧
      (ready [.fail]).mirror = (ready []).mirror ∧ (ready [.fail]).life = (ready []).life :=
  ⟨⟨_, rfl, rfl⟩, ⟨_, rfl, by decide⟩, ⟨_, rfl⟩, ⟨_, rfl⟩, ⟨_, rfl⟩, rfl, rfl⟩

theorem witness_RefreshedDecodersAnswerFromOneTransaction :
    (ready (sevenBytes.map .reply)).life = .ready ∧
      Heard (ready (sevenBytes.map .reply)) [0x00, 0x19, 0x00, 0x01, 0x90, 0x00, 0x00] [] := ⟨rfl, rfl⟩

theorem witness_DecodersReadOnlyTheirOwnBytes :
    let s := ready []
    let other := readyWith ([0x00, 0x00, 0x00, 0x00, 0x00, 0x00, 0x00, 0x00, 0x00, 0x00] ++ p1Mirror.drop 10) []
    other.life = s.life ∧ (∀ a : Fin 16, 0x0C ≤ a.val → a.val ≤ 0x0F → other.mirror.read a = s.mirror.read a) ∧
      (∀ a : Fin 16, 0x0A ≤ a.val → a.val ≤ 0x0B → other.mirror.read a = s.mirror.read a) ∧
      other.mirror.read 0x0F = s.mirror.read 0x0F ∧ (∃ t, exec (.temp false) s = .next t) ∧
      (∃ t, exec (.cjt false) s = .next t) ∧ ∃ t, exec (.flt false) s = .next t :=
  ⟨rfl, by decide, by decide, by decide, ⟨_, rfl⟩, ⟨_, rfl⟩, _, rfl⟩

theorem witness_ThermocoupleScaleIsExact :
    (∃ v w : Word, (tempFixed v).value = (tempFixed w).value) ∧ (ready []).life = .ready ∧
      (ready []).mirror.read 0x0C = some 0x01 ∧ (ready []).mirror.read 0x0D = some 0x90 ∧
      (ready []).mirror.read 0x0E = some 0x00 ∧ (ready []).mirror.read 0x0F = some 0x00 :=
  ⟨⟨0, 0, rfl⟩, rfl, by decide, by decide, by decide, by decide⟩

theorem witness_ColdJunctionScaleIsExact :
    (ready []).life = .ready ∧ (ready []).mirror.read 0x0A = some 0x19 ∧ (ready []).mirror.read 0x0B = some 0x00 := by
  decide

theorem witness_DecodersAreMonotonic :
    (0x80000000#32).toInt < (0x7FFFFFFF#32).toInt ∧ (0x80#8 ++ 0x00#8).toInt < (0x7F#8 ++ 0xFF#8).toInt := by decide

theorem witness_FltReportsAllActiveFaults :
    (ready []).life = .ready ∧ (ready []).mirror.read 0x0F = some 0x00 := by decide

theorem witness_FaultDescriptionTellsStatusBytesApart : DelimiterOk ";" ∧ describe ";" 0x11#8 = describe ";" 0x11#8 :=
  ⟨⟨by decide, fun c hc => by
    have : c = ';' := by simpa using hc
    subst this
    rfl⟩, rfl⟩

theorem witness_RangeTransfersAreConfined :
    (∃ t, exec (.rdr 0xF 1) (ready (failingAfter [0x00])) = .next t) ∧ 0xE < (0xF : BitVec 4).toNat ∧
      (0xF : BitVec 4).toNat + (1 : BitVec 5).toNat ≤ 16 ∧ ∃ t, exec (.wrr 0 16) (ready [.fail]) = .next t :=
  ⟨⟨_, rfl⟩, by decide, by decide, _, rfl⟩

theorem witness_MirrorBytesHaveNoOtherWriter :
    (∃ t, exec .oneshot (ready [.fail]) = .next t) ∧ mayWrite .oneshot 1 = false ∧ mayWrite .oneshot 9 = false ∧
      (∃ t, exec (.mst 3 0) (ready []) = .next t) ∧ mayWrite (.mst 3 0) 4 = false := ⟨⟨_, rfl⟩, by decide, by decide, ⟨_, rfl⟩, by decide⟩

theorem witness_OtherStateHasNoOtherWriter :
    (∃ t, exec (.mld 0) (ready []) = .next t) ∧ isInit (.mld 0) = false ∧ transactions (.mld 0) = 0 ∧
      (∃ t, exec (.busRead 0 0) (ready [.fail]) = .next t) ∧ isCommand (.busRead 0 0) = false :=
  ⟨⟨_, rfl⟩, rfl, rfl, ⟨_, rfl⟩, rfl⟩

theorem witness_LifecycleFollowsInit :
    (∃ t, exec (.init 3 false false 0 0) (fresh (initAnswers 0x93 0x43)) = .next t ∧ t.err = 0) ∧
      (∃ t, exec (.init 3 false false 0 0) (fresh [.fail]) = .next t ∧ t.err ≠ 0) ∧
      (∃ t, exec (.mld 0) (ready []) = .next t) ∧
      ∃ s : State, s.port = .request (.command 0x50000000#32) :: [] ∧ s.busy = true := ⟨next_of_after (look := State.err) (by decide +kernel), ⟨_, rfl, by decide⟩, ⟨_, rfl⟩,
  { ready [] with port := [.request (.command 0x50000000#32)], busy := true }, rfl, rfl⟩

theorem witness_CommandsWithoutResultAnswerZero :
    ∃ t, exec (.mst 0xF 0xFF) (ready []) = .next t ∧ isCommand (.mst 0xF 0xFF) = true ∧ t.err = 0 ∧
      (∀ r, Instr.mst 0xF 0xFF ≠ .temp r) ∧ (∀ r, Instr.mst 0xF 0xFF ≠ .cjt r) ∧ (∀ r, Instr.mst 0xF 0xFF ≠ .flt r) ∧
      ∀ a, Instr.mst 0xF 0xFF ≠ .mld a := ⟨_, rfl, rfl, rfl, by decide, by decide, by decide, by decide⟩

theorem witness_EventCountsOfCompletedCommands :
    ∃ t, exec .oneshot (ready oneShotAnswers) = .next t ∧ isCommand .oneshot = true ∧ t.err = 0 := ⟨_, rfl, rfl, rfl⟩

theorem witness_HistoryIsAppendedToAndNeverRead : ∃ t, exec .oneshot (ready [.reply 0x00, .fail]) = .next t := ⟨_, rfl⟩

theorem witness_SequencerLeftoversAreNeverRead : ∃ t, exec (.rdr 0xF 1) (ready [.reply 0x00, .fail]) = .next t := ⟨_, rfl⟩

/-- A constructed controller meets the invariant, whatever is presented and answered. -/
theorem ready_inv (answers : List Answer) (port : List PortInput) : Inv { ready answers with port := port } where
  quiescent := ⟨rfl, rfl, rfl, rfl⟩
  ptr := show (0 : BitVec 5) ≤ 16 by decide
  left := show (0 : BitVec 5) ≤ 16 by decide
  xbuf := rfl
  mirror := show (mirrorOf p1Mirror).wf by decide
  complete _ a ha := by
    have : ∀ a : Fin 16, ((mirrorOf p1Mirror).read a).isSome = true := by decide
    exact this ⟨a, ha⟩
  configured _ := rfl
  err := show (0 : BitVec 4) ≤ 5 by decide
  answered := rfl

theorem witness_StepKeepsTheInvariant :
    ∃ s t : State, Inv s ∧ step s = .next t ∧ s.port ≠ [] :=
  ⟨{ ready oneShotAnswers with port := [.request (.command 0x50000000#32)] }, _, ready_inv _ _, rfl, by decide⟩

theorem witness_StepNeverFaultsUnderTheInvariant :
    (∃ s : State, Inv s ∧ s.port = [.request (.command 0x50000000#32)]) ∧
      ∃ s : State, Inv s ∧ s.port = [.request (.frame [])] :=
  ⟨⟨{ ready [] with port := [.request (.command 0x50000000#32)] }, ready_inv _ _, rfl⟩,
    { ready [] with port := [.request (.frame [])] }, ready_inv _ _, rfl⟩

theorem witness_StepKeepsHistoryAndWireInAgreement :
    ∃ s t : State, Inv s ∧ Agrees s.hist s.wire ∧ step s = .next t ∧ s.port ≠ [] :=
  ⟨{ ready oneShotAnswers with port := [.request (.command 0x50000000#32)] }, _, ready_inv _ _, .nil, rfl, by decide⟩

/-- A write, a wait and a failed read agree with their history. -/
theorem agrees_example :
    Agrees [.w 0 [0x53], .f .rd 0xA 0]
      ([] ++ wireOfWrite 0 [0x53] ++ [.wait 0] ++
        (.select :: List.zipWith .duplex ((readFrame 0xA 6).take 0) [] ++ [.broken, .deselect])) :=
  .event [_] _ _ _ (.wait [_] _ 0 (.event [] [] _ _ .nil (.w 0 [0x53] (by decide)))) (.fr 0xA 6 0 [] (by decide) (by decide) rfl)

theorem witness_ChipSelectBracketsEveryByte : ∃ hist wire, Agrees hist wire ∧ hist ≠ [] := ⟨_, _, agrees_example, by decide⟩

theorem witness_AddressBytesNameTheRegisters :
    ∃ hist wire f b, Agrees hist wire ∧ (framesOf wire)[0]? = some f ∧ f.sent.head? = some b ∧ b.getLsbD 7 = true :=
  ⟨_, _, _, _, agrees_example, rfl, rfl, rfl⟩

theorem witness_TracePortShowsEachTransaction :
    ∃ s : State, Agrees s.hist s.wire ∧ s.hist[0]? = some (.w 0 [0x53]) ∧ (tracePort s)[0]? = some
      { kind := .w, start := 0, count := 1, bytes := { sent := [0x80, 0x53], received := [] } } :=
  ⟨{ ready [] with
      hist := [.w 0 [0x53], .f .rd 0xA 0]
      wire := [] ++ wireOfWrite 0 [0x53] ++ [.wait 0] ++
        (.select :: List.zipWith .duplex ((readFrame 0xA 6).take 0) [] ++ [.broken, .deselect]) },
    agrees_example, rfl, rfl⟩

end Sys2Proof.Tests
end

/-! PROOFS. Decoding: what `decodeCommand` and `decodeFrame` accept, said once (spec/30_encoding.md R91 to R93, R96,
R100, R101). -/

namespace Sys2Proof.Decoding

open Laws.EncodesInRow

theorem checkRow_eq_ok_iff {c mask pattern : Word} {i j : Instr} :
    checkRow c mask pattern i = .ok j ↔ c &&& mask = pattern ∧ i = j := by
  by_cases h : c &&& mask = pattern <;> simp [checkRow, h]

/-- No reserved bit and no opcode outside the table is accepted (R100, R101). -/
theorem agrees_of_decodeCommand_eq_ok {c : Word} {i : Instr} (h : decodeCommand c = .ok i) :
    c &&& rowMask i = rowMatch i := by
  unfold decodeCommand at h
  split at h
  case h_11 => cases h
  all_goals
    obtain ⟨agrees, rfl⟩ := checkRow_eq_ok_iff.mp h
    exact agrees

/-- A mask that covers bits 31:28 pins the opcode, so the rows of two opcodes exclude each other (R100). -/
theorem opcode_of_agrees {c mask pattern : Word} (hmask : mask.extractLsb' 28 4 = BitVec.allOnes 4)
    (h : c &&& mask = pattern) : c.extractLsb' 28 4 = pattern.extractLsb' 28 4 := by
  rw [← h, BitVec.extractLsb'_and, hmask, BitVec.and_allOnes]

/-- A row decodes exactly the words that agree with it, once its opcode is seen to select it (R100). -/
theorem agrees_iff_decodeCommand_eq_ok {c mask pattern : Word} {i : Instr} (hmask : rowMask i = mask)
    (hpattern : rowMatch i = pattern) (hopcode : mask.extractLsb' 28 4 = BitVec.allOnes 4)
    (hselect : c.extractLsb' 28 4 = pattern.extractLsb' 28 4 → decodeCommand c = checkRow c mask pattern i) :
    c &&& mask = pattern ↔ decodeCommand c = .ok i where
  mp h := (hselect (opcode_of_agrees hopcode h)).trans (checkRow_eq_ok_iff.mpr ⟨h, rfl⟩)
  mpr h := hmask ▸ hpattern ▸ agrees_of_decodeCommand_eq_ok h

/-- Everything a frame that decodes can be (R91 to R93). -/
theorem decodeFrame_cons_cases {b : Byte} {data : List Byte} {i : Instr} (h : decodeFrame (b :: data) = .ok i) :
    data.length ≤ 16 ∧
      ((b &&& Params.writeFlag = Params.writeFlag ∧ i = .busWrite (b.extractLsb' 0 7) data) ∨
        (b &&& Params.writeFlag ≠ Params.writeFlag ∧ data = List.replicate data.length Params.readFill ∧
          i = .busRead (b.extractLsb' 0 7) (BitVec.ofNat 5 data.length))) := by
  rw [decodeFrame] at h
  split at h
  · cases h
  next fits =>
    refine ⟨Nat.le_of_not_lt fits, ?_⟩
    split at h
    next isWrite => exact .inl ⟨isWrite, (Except.ok.inj h).symm⟩
    next isRead =>
      split at h
      next fill => exact .inr ⟨isRead, fill, (Except.ok.inj h).symm⟩
      · cases h

/-- The write indicator is one bit: clear is the same as not set (R91). -/
theorem writeFlag_clear_iff (b : Byte) : b &&& 0x80#8 = 0x00#8 ↔ b &&& 0x80#8 ≠ 0x80#8 := by
  revert b
  decide

/-- The kind of a frame that decodes is the one bit 7 of its first byte names (R91). -/
theorem frameKind_of_decodeFrame_eq_ok {b : Byte} {data : List Byte} {i : Instr}
    (h : decodeFrame (b :: data) = .ok i) :
    (b &&& 0x80#8 = 0x00#8 ↔ ∃ a n, i = .busRead a n) ∧
      (b &&& 0x80#8 = 0x80#8 ↔ ∃ a payload, i = .busWrite a payload) := by
  rw [writeFlag_clear_iff]
  obtain ⟨-, ⟨isWrite, rfl⟩ | ⟨isRead, -, rfl⟩⟩ := decodeFrame_cons_cases h
  · have : b &&& 0x80#8 = 0x80#8 := isWrite
    simp [this]
  · have : b &&& 0x80#8 ≠ 0x80#8 := isRead
    simp [this]

/-- Settles O5: each row's mask covers the opcode, the opcode selects the row, and the row checks the word. -/
theorem commandWordsDecodeByTheirRow : Obligations.CommandWordsDecodeByTheirRow := by
  refine ⟨fun _ _ _ => frameKind_of_decodeFrame_eq_ok, fun c => ?_⟩
  refine ⟨agrees_iff_decodeCommand_eq_ok rfl rfl rfl ?init, agrees_iff_decodeCommand_eq_ok rfl rfl rfl ?rdr,
    agrees_iff_decodeCommand_eq_ok rfl rfl rfl ?wrr, agrees_iff_decodeCommand_eq_ok rfl rfl rfl ?rdd,
    agrees_iff_decodeCommand_eq_ok rfl rfl rfl ?oneshot, agrees_iff_decodeCommand_eq_ok rfl rfl rfl ?temp,
    agrees_iff_decodeCommand_eq_ok rfl rfl rfl ?cjt, agrees_iff_decodeCommand_eq_ok rfl rfl rfl ?flt,
    agrees_iff_decodeCommand_eq_ok rfl rfl rfl ?mld, agrees_iff_decodeCommand_eq_ok rfl rfl rfl ?mst⟩
  all_goals
    intro opcode
    rw [decodeCommand, opcode]
    rfl

end Sys2Proof.Decoding

/-! PROOFS. The mirror's commands `RDR`, `WRR`, `RDD`, `MLD`, `MST` (spec/40_bus_transactions.md section 2): what each
can end in, said once through the guards all commands share. -/

namespace Sys2Proof.Transfers

open Machine

/-! ### What a guarded command that does not stop has done -/

section Guards

variable {s t : State} {k : State → Host.Outcome State Fault Refusal}

theorem whenReady_cases (h : whenReady s k = .next t) :
    s.life ≠ .ready ∧ t = raise false .notConstructed s ∨ s.life = .ready ∧ k s = .next t := by
  by_cases ready : s.life = .ready
  · exact .inr ⟨ready, whenReady_ready k ready ▸ h⟩
  · rw [whenReady_not k ready] at h
    exact .inl ⟨ready, (Host.Outcome.next.inj h).symm⟩

theorem whenInRange_cases {start : BitVec 4} {count : BitVec 5} (h : whenInRange start count s k = .next t) :
    16 < start.toNat + count.toNat ∧ t = raise false (.rangeError (start.setWidth 7) count) s ∨
      start.toNat + count.toNat ≤ 16 ∧ k s = .next t := by
  by_cases fits : start.toNat + count.toNat ≤ 16
  · exact .inr ⟨fits, whenInRange_in s k fits ▸ h⟩
  · have past := Nat.lt_of_not_le fits
    rw [whenInRange_out s k past] at h
    exact .inl ⟨past, (Host.Outcome.next.inj h).symm⟩

theorem withValue_cases {α : Type} {v : Option α} {k : α → Host.Outcome State Fault Refusal}
    (h : withValue v k = .next t) : ∃ x, v = some x ∧ k x = .next t := by
  cases v with
  | some x => exact ⟨x, rfl, h⟩
  | none => cases h

/-- A command whose guarded part can only succeed has `NotConstructed` as its only exception (R205). -/
theorem err_of_whenReady (h : whenReady s k = .next t) (succeeds : k s = .next t → t.err = 0) :
    t.err = 0 ∧ s.life = .ready ∨ t.err = 5 ∧ s.life ≠ .ready := by
  obtain ⟨notReady, rfl⟩ | ⟨ready, run⟩ := whenReady_cases h
  · exact .inr ⟨rfl, notReady⟩
  · exact .inl ⟨succeeds run, ready⟩

end Guards

/-! ### What a transaction inside a command leaves in the mirror -/

section Mirror

variable {cont : State → State}

/-- A read into the mirror replaces its range and nothing else, whether it completes or fails (R124, R126). -/
theorem pull_orRaise_mirror (a n : Nat) (s : State) (constructing : Bool)
    (keeps : ∀ u, (cont u).mirror = u.mirror) :
    ∃ bytes : List Byte, bytes.length = n ∧
      ((pull a n s).orRaise constructing cont).mirror = s.mirror.writeRange a bytes := by
  obtain ⟨A, D, ⟨x, bytes, length, done⟩ | ⟨rs, -, failed⟩⟩ := pull_cases a n s.answers s.draws
  · refine ⟨bytes, length, ?_⟩
    rw [done s rfl rfl, orRaise_done, keeps]
  · refine ⟨(List.range n).map fun i => Config.tornByte ((brokenRead a n rs A D s).draws + i), by simp, ?_⟩
    rw [failed s rfl rfl, orRaise_failed, raise_mirror, tear_mirror, brokenRead_mirror]

/-- A write transaction leaves the mirror alone, whether it completes or fails (R121). -/
theorem busWrite_orRaise_mirror (a : Nat) (payload : List Byte) (s : State) (constructing : Bool)
    (keeps : ∀ u, (cont u).mirror = u.mirror) :
    ((busWrite a payload s).orRaise constructing cont).mirror = s.mirror := by
  obtain ⟨A, D, done | ⟨rs, -, failed⟩⟩ := busWrite_cases a payload s.answers s.draws
  · rw [done s rfl rfl, orRaise_done, keeps, afterWrite_mirror]
  · rw [failed s rfl rfl, orRaise_failed, raise_mirror, brokenWrite_mirror]

end Mirror

/-! ### `RDR` and `WRR` -/

/-- A `RDR` in a `READY` state, its range inside the register file, is one read into the mirror (R124). -/
theorem exec_rdr_of_ready {start : BitVec 4} {count : BitVec 5} {s : State} (ready : s.life = .ready)
    (fits : start.toNat + count.toNat ≤ 16) :
    exec (.rdr start count) s =
      .next ((pull start.toNat count.toNat (accept s)).orRaise false (respond 0)) := by
  rw [exec, execRdr, whenReady_ready _ ((accept_life s).trans ready), whenInRange_in _ _ fits]

/-- A `RDR` whose exchanges all complete stores what it heard and answers 0 (R124). -/
theorem exec_rdr_heard {start : BitVec 4} {count : BitVec 5} {x : Byte} {bytes : List Byte} {rest : List Answer}
    {s : State} (ready : s.life = .ready) (fits : start.toNat + count.toNat ≤ 16) (length : bytes.length = count.toNat)
    (heard : Heard s (x :: bytes) rest) :
    exec (.rdr start count) s =
      .next (respond 0
        { afterRead start.toNat count.toNat x bytes rest s.draws (accept s) with
          mirror := s.mirror.writeRange start.toNat bytes }) := by
  have heard' : Heard (accept s) (x :: bytes) rest := heard
  rw [exec_rdr_of_ready ready fits, pull_heard _ _ heard' length, orRaise_done, accept_mirror, accept_draws]

/-- In every outcome of `RDR` the mirror changes in the range at most (R127). -/
theorem exec_rdr_mirror_outside {start : BitVec 4} {count : BitVec 5} {s t : State}
    (h : exec (.rdr start count) s = .next t) {a : Nat}
    (outside : a < start.toNat ∨ start.toNat + count.toNat ≤ a) : t.mirror.read a = s.mirror.read a := by
  rw [exec, execRdr] at h
  obtain ⟨-, rfl⟩ | ⟨-, h⟩ := whenReady_cases h
  · rw [raise_mirror, accept_mirror]
  obtain ⟨-, rfl⟩ | ⟨-, h⟩ := whenInRange_cases h
  · rw [raise_mirror, accept_mirror]
  · obtain ⟨bytes, length, mirror⟩ :=
      pull_orRaise_mirror start.toNat count.toNat (accept s) false (respond_mirror 0)
    rw [← Host.Outcome.next.inj h, mirror, accept_mirror, Memory.read_writeRange_outside _ _ (length ▸ outside)]

/-- In every outcome of `WRR` the mirror stays as it was (R123, R127). -/
theorem exec_wrr_mirror {start : BitVec 4} {count : BitVec 5} {s t : State}
    (h : exec (.wrr start count) s = .next t) : t.mirror = s.mirror := by
  rw [exec, execWrr] at h
  obtain ⟨-, rfl⟩ | ⟨-, h⟩ := whenReady_cases h
  · rw [raise_mirror, accept_mirror]
  obtain ⟨-, rfl⟩ | ⟨-, h⟩ := whenInRange_cases h
  · rw [raise_mirror, accept_mirror]
  · obtain ⟨payload, -, h⟩ := withValue_cases h
    rw [← Host.Outcome.next.inj h, busWrite_orRaise_mirror _ _ _ _ (respond_mirror 0), accept_mirror]

/-- Settles O45: `RDR` reaches the mirror only through one read of its range, `WRR` only reads it. -/
theorem rangeTransfersAreConfined : Obligations.RangeTransfersAreConfined :=
  fun _ _ _ _ => ⟨fun h _ outside => exec_rdr_mirror_outside h outside, fun h a => by rw [exec_wrr_mirror h]⟩

/-! ### `RDD` -/

/-- The range of `RDD` passes the range check that `RDR` makes (R130). -/
theorem exec_rdd_eq_exec_rdr (s : State) : exec .rdd s = exec (.rdr 0xA 6) s := by
  have inRange : ∀ k s1, whenInRange 0xA 6 s1 k = k s1 := fun k s1 => whenInRange_in s1 k (by decide)
  simp only [exec, execRdd, execRdr, inRange]
  rfl

/-- Settles O18: `RDD` is the `RDR` of the six data registers, so the completed `RDR` says what it stores. -/
theorem rddRefreshesTheDataRegisters : Obligations.RddRefreshesTheDataRegisters := by
  refine ⟨exec_rdd_eq_exec_rdr, fun x b0 b1 b2 b3 b4 b5 rest s ready heard => ?_⟩
  have run := exec_rdr_heard (start := 0xA) (count := 6) ready (by decide) rfl heard
  have stored : ∀ a, (s.mirror.writeRange 0xA [b0, b1, b2, b3, b4, b5]).read a =
      if 0xA ≤ a ∧ a < 0x10 then [b0, b1, b2, b3, b4, b5][a - 0xA]? else s.mirror.read a :=
    Memory.read_writeRange _ _ _
  refine ⟨_, (exec_rdd_eq_exec_rdr s).trans run, stored 0x0A, stored 0x0B, stored 0x0C, stored 0x0D, stored 0x0E,
    stored 0x0F, fun a outside => (stored a).trans (if_neg ?_), rfl, rfl, rfl, ready⟩
  omega

/-! ### `MLD` and `MST` -/

/-- Settles O19: past the lifecycle check `MLD` only answers. -/
theorem mldReturnsTheMirrorByte : Obligations.MldReturnsTheMirrorByte := by
  intro addr s
  constructor
  · intro b ready held
    rw [exec, execMld, whenReady_ready _ ((accept_life s).trans ready), accept_mirror, held, withValue_some,
      zextByte_eq]
    rfl
  · intro t h
    rw [exec, execMld] at h
    refine err_of_whenReady (s := accept s) h fun run => ?_
    obtain ⟨b, -, answered⟩ := withValue_cases run
    rw [← Host.Outcome.next.inj answered, respond_err]

/-- Settles O20: past the lifecycle check `MST` is one mirror write and the answer 0. -/
theorem mstStoresTheMirrorByte : Obligations.MstStoresTheMirrorByte := by
  intro addr data s
  constructor
  · intro ready
    refine ⟨s.mirror.write addr.toNat data, ?_, Memory.read_write_same _ _ _,
      fun a other => Memory.read_write_other _ _ other⟩
    rw [exec, execMst, whenReady_ready _ ((accept_life s).trans ready)]
    rfl
  · intro t h
    rw [exec, execMst] at h
    refine err_of_whenReady (s := accept s) h fun run => ?_
    rw [← Host.Outcome.next.inj run, respond_err]

end Sys2Proof.Transfers

/-! PROOFS. `INIT` (spec/41_init_config.md): the full read, the push with its read-back, and the mirror they leave. -/

namespace Sys2Proof.Construction

open Machine

/-- The state after step 3 of `INIT`, the full read (R151, R152). -/
def afterFullRead (x : Byte) (first : List Byte) (rest : List Answer) (s : State) : State :=
  { afterRead 0 16 x first rest s.draws (initConfigure (initRelease (accept s))) with
    mirror := s.mirror.writeRange 0 first }

/-- The state after steps 6 to 8 of `INIT`: the push of CR0, CR1 and the mask, and the read-back (R156, R157, R158). -/
def afterPush (c0 c1 x : Byte) (back : List Byte) (rest : List Answer) (s : State) : State :=
  { afterRead 0 3 x back rest s.draws (afterWrite 0 [c0, c1, 0x00#8] rest s.draws s) with
    mirror := (s.mirror.write 2 0x00#8).writeRange 0 back }

theorem afterPush_hist (c0 c1 x : Byte) (back : List Byte) (rest : List Answer) (s : State) :
    (afterPush c0 c1 x back rest s).hist = s.hist ++ [.w 0 [c0, c1, 0x00#8], .r 0 3 back] := by
  simp [afterPush]

/-- An `INIT` whose full read completes goes on to the type lookup with CR0 staged (R152, R153). -/
theorem exec_init_of_fullRead {tsel : BitVec 4} {cr0v cr1v : Bool} {cr0 cr1 x : Byte} {first : List Byte}
    {rest : List Answer} {s : State} (heard : Heard s (x :: first) rest) (length : first.length = 16) :
    exec (.init tsel cr0v cr1v cr0 cr1) s =
      .next (initType tsel (chosenAvg cr1v cr1) (chosenCr0 cr0v cr0)
        (stage 0 (chosenCr0 cr0v cr0) (afterFullRead x first rest s))) := by
  have heard' : Heard (initConfigure (initRelease (accept s))) (x :: first) rest := heard
  rw [exec, execInit, Params.nreg, pull_heard 0 16 heard' length, orRaise_done]
  rfl

/-- With a recognized type the lookup stages the merged CR1 and pushes (R155). -/
theorem initType_recognized {tsel : BitVec 4} {ty : Thermocouple} (avg c0 : Byte) (s : State)
    (recognized : Thermocouple.ofSelector tsel = some ty) :
    initType tsel avg c0 s = initPush c0 (mergeCr1 avg ty.code) (stage 1 (mergeCr1 avg ty.code) s) := by
  rw [initType, recognized]
  rfl

/-- The push and the read-back, when their exchanges complete, end the construction (R157, R158). -/
theorem initPush_heard {c0 c1 x : Byte} {w back : List Byte} {rest : List Answer} {s : State}
    (heard : Heard s (w ++ x :: back) rest) (hw : w.length = 4) (hback : back.length = 3) :
    initPush c0 c1 s = initComplete (afterPush c0 c1 x back rest s) := by
  have pushed : Heard (stage Params.addrMask 0x00#8 s) w ((x :: back).map Answer.reply ++ rest) :=
    heard_append.mp heard
  have backHeard : Heard (afterWrite 0 [c0, c1, 0x00#8] ((x :: back).map Answer.reply ++ rest) s.draws
      (stage Params.addrMask 0x00#8 s)) (x :: back) rest := rfl
  rw [initPush, busWrite_heard _ [c0, c1, 0x00#8] pushed hw, orRaise_done]
  exact congrArg (fun outcome => outcome.orRaise true initComplete) (pull_heard 0 3 backHeard hback)

/-- Three bytes read back cover the three staged ones (R158, R160). -/
theorem read_staged_writeRange {m : Memory} {c0 c1 c2 : Byte} {back : List Byte} (length : back.length = 3) (a : Nat) :
    ((((m.write 0 c0).write 1 c1).write 2 c2).writeRange 0 back).read a = if a < 3 then back[a]? else m.read a := by
  rw [Memory.read_writeRange, length]
  by_cases below : a < 3
  · simp [below]
  · have h0 : a ≠ 0 := by omega
    have h1 : a ≠ 1 := by omega
    have h2 : a ≠ 2 := by omega
    simp [below, Memory.read_write_other _ _ h0, Memory.read_write_other _ _ h1, Memory.read_write_other _ _ h2]

/-- A completed `INIT`, its state written out (R160): the full read, the two stagings, the push with its read-back. -/
theorem exec_init_heard {tsel : BitVec 4} {cr0v cr1v : Bool} {cr0 cr1 x x' : Byte} {first back w : List Byte}
    {rest : List Answer} {ty : Thermocouple} {s : State} (recognized : Thermocouple.ofSelector tsel = some ty)
    (hfirst : first.length = 16) (hw : w.length = 4) (hback : back.length = 3)
    (heard : Heard s ((x :: first) ++ (w ++ x' :: back)) rest) :
    exec (.init tsel cr0v cr1v cr0 cr1) s =
      .next (initComplete (afterPush (chosenCr0 cr0v cr0) (mergeCr1 (chosenAvg cr1v cr1) ty.code) x' back rest
        (stage 1 (mergeCr1 (chosenAvg cr1v cr1) ty.code) (stage 0 (chosenCr0 cr0v cr0)
          (afterFullRead x first ((w ++ x' :: back).map Answer.reply ++ rest) s))))) := by
  rw [exec_init_of_fullRead (heard_append.mp heard) hfirst, initType_recognized _ _ _ recognized]
  exact congrArg _ (initPush_heard rfl hw hback)

/-- Settles O22: the selector's code names a recognized type, so the completed `INIT` is written out in full; its mirror
holds the bytes read back before those of the full read. -/
theorem initConstructsTheController : Obligations.InitConstructsTheController := by
  intro tsel cr0v cr1v cr0 cr1 x x' first back w rest code s hcode hfirst hw hback heard
  obtain ⟨ty, recognized, rfl⟩ := ofSelector_of_code hcode
  rw [List.append_assoc] at heard
  have mirror (a : Nat) := read_staged_writeRange (m := s.mirror.writeRange 0 first) (c0 := chosenCr0 cr0v cr0)
    (c1 := mergeCr1 (chosenAvg cr1v cr1) ty.code) (c2 := 0x00#8) hback a
  refine ⟨_, exec_init_heard recognized hfirst hw hback heard, fun a below => ?_, fun a above inside => ?_,
    fun a outside => ?_, rfl, rfl, rfl, rfl, rfl, rfl, rfl, ?_, rfl, rfl, rfl, rfl⟩
  · exact (mirror a).trans (if_pos below)
  · refine (mirror a).trans ((if_neg (by omega)).trans ?_)
    rw [Memory.read_writeRange, if_pos ⟨Nat.zero_le a, by omega⟩, Nat.sub_zero]
  · refine (mirror a).trans ((if_neg (by omega)).trans ?_)
    exact Memory.read_writeRange_outside _ _ (.inr (by omega))
  · rw [← mergeCr1_eq]
    exact (afterPush_hist _ _ x' _ _ _).trans (List.append_assoc _ _ _)

end Sys2Proof.Construction

/-! PROOFS. `ONESHOT` (spec/42_one_shot.md): the push of the updated CR0, the wait, the closing read, and the mirror they
leave. -/

namespace Sys2Proof.OneShot

open Machine

/-- The CR0 update with its masks written out (R171). -/
theorem oneShotCr0_eq (old : Byte) : oneShotCr0 old = (old &&& 0x7F#8) ||| 0x40#8 := rfl

/-! ### The two transactions -/

/-- The state after the push and the wait (R171 to R173): `c` is the updated CR0. -/
def afterTrigger (c : Byte) (rest : List Answer) (s : State) : State :=
  expireDelay (startDelay (afterWrite 0 [c] rest s.draws (stage 0 c (accept s))))

/-- The state after the closing read that follows a push of `c` (R174). -/
def afterClosingRead (c x : Byte) (data : List Byte) (rest : List Answer) (s : State) : State :=
  { afterRead 0x0A 6 x data rest s.draws (afterTrigger c ((x :: data).map Answer.reply ++ rest) s) with
    mirror := (s.mirror.write 0 c).writeRange 0x0A data }

/-- A `ONESHOT` whose push completes waits and goes on to the closing read (R172 to R174). -/
theorem exec_oneshot_of_push {old : Byte} {w : List Byte} {rest : List Answer} {s : State} (ready : s.life = .ready)
    (held : s.mirror.read 0 = some old) (length : w.length = 2) (heard : Heard s w rest) :
    exec .oneshot s =
      .next ((pull 0x0A 6 (afterTrigger (oneShotCr0 old) rest s)).orRaise false (respond 0)) := by
  have pushed : Heard (stage 0 (oneShotCr0 old) (accept s)) w rest := heard
  rw [exec, execOneshot, whenReady_ready _ ((accept_life s).trans ready), accept_mirror, Params.addrCr0, held,
    withValue_some, busWrite_heard 0 [oneShotCr0 old] pushed length, orRaise_done]
  rfl

/-- A completed `ONESHOT`, its state written out (R170). -/
theorem exec_oneshot_heard {old x : Byte} {w data : List Byte} {rest : List Answer} {s : State}
    (ready : s.life = .ready) (held : s.mirror.read 0 = some old) (hw : w.length = 2) (hdata : data.length = 6)
    (heard : Heard s (w ++ x :: data) rest) :
    exec .oneshot s = .next (respond 0 (afterClosingRead (oneShotCr0 old) x data rest s)) := by
  have readHeard : Heard (afterTrigger (oneShotCr0 old) ((x :: data).map Answer.reply ++ rest) s) (x :: data) rest :=
    rfl
  rw [exec_oneshot_of_push ready held hw (heard_append.mp heard), pull_heard 0x0A 6 readHeard hdata, orRaise_done]
  rfl

/-! ### What they leave -/

/-- The mirror after a completed `ONESHOT`: the six bytes heard, the updated CR0, all else as before (R171, R174). -/
theorem afterClosingRead_read {c x : Byte} {data : List Byte} {rest : List Answer} {s : State}
    (length : data.length = 6) (a : Nat) :
    (afterClosingRead c x data rest s).mirror.read a =
      if 0x0A ≤ a ∧ a < 0x10 then data[a - 0x0A]? else if a = 0 then some c else s.mirror.read a := by
  rw [afterClosingRead, Memory.read_writeRange, Memory.read_write, length]

/-- The events of a completed `ONESHOT`: the push, then the closing read (R172, R174). -/
theorem afterClosingRead_hist (c x : Byte) (data : List Byte) (rest : List Answer) (s : State) :
    (afterClosingRead c x data rest s).hist = s.hist ++ [.w 0 [c], .r 0x0A 6 data] := by
  simp [afterClosingRead, afterTrigger]

/-- The wire of a completed `ONESHOT`: the wait stands between the two transactions (R173). -/
theorem afterClosingRead_wire (c x : Byte) (data : List Byte) (rest : List Answer) (s : State) :
    (afterClosingRead c x data rest s).wire =
      s.wire ++ (wireOfWrite 0 [c] ++ .wait Config.oneShotDelay :: wireOfRead 0x0A 6 (x :: data)) := by
  simp [afterClosingRead, afterTrigger]

/-- Settles O26: the completed `ONESHOT` is written out in full; its mirror, history and wire are read off it. -/
theorem oneShotTriggersAndReads : Obligations.OneShotTriggersAndReads := by
  intro old x b0 b1 b2 b3 b4 b5 w rest s ready held hw heard
  have run := exec_oneshot_heard (data := [b0, b1, b2, b3, b4, b5]) ready held hw rfl heard
  rw [oneShotCr0_eq] at run
  have mirror (a : Nat) := afterClosingRead_read (c := (old &&& 0x7F#8) ||| 0x40#8) (x := x)
    (data := [b0, b1, b2, b3, b4, b5]) (rest := rest) (s := s) rfl a
  have kept (a : Nat) (outside : a ≠ 0 ∧ (a < 0x0A ∨ 0x10 ≤ a)) :=
    (mirror a).trans ((if_neg (by omega)).trans (if_neg outside.1))
  exact ⟨_, run, mirror 0, fun a above below => kept a ⟨by omega, .inl below⟩, mirror 0x0A, mirror 0x0B, mirror 0x0C,
    mirror 0x0D, mirror 0x0E, mirror 0x0F, fun a past => kept a ⟨by omega, .inr past⟩, afterClosingRead_hist ..,
    afterClosingRead_wire .., rfl, rfl, rfl, rfl, rfl, ready, rfl, rfl, rfl⟩

end Sys2Proof.OneShot

/-! PROOFS. The decoder commands `TEMP`, `CJT`, `FLT` (spec/43_decoder.md): what the one decode they share does without
and with the refresh, and the values and flags their answers stand for. -/

namespace Sys2Proof.Decoders

open Machine

/-! ### Without the refresh -/

section Unrefreshed

variable {s t : State} (decoder : Memory → Option Word)

/-- In a `READY` state the decode is a function of the mirror, and only the response side of the state changes (R193). -/
theorem decodeWith_false_of_ready (ready : s.life = .ready) :
    decodeWith decoder false s = withValue (decoder s.mirror) fun w => .next (respond w s) := by
  rw [decodeWith, whenReady_ready _ ((accept_life s).trans ready)]
  rfl

theorem decodeWith_false_of_not_ready (notReady : s.life ≠ .ready) :
    decodeWith decoder false s = .next (raise false .notConstructed (accept s)) := by
  rw [decodeWith, whenReady_not _ (mt (accept_life s).symm.trans notReady)]

variable {decoder}

theorem decodeWith_false_of_held {w : Word} (ready : s.life = .ready) (held : decoder s.mirror = some w) :
    decodeWith decoder false s = .next (respond w s) := by
  rw [decodeWith_false_of_ready decoder ready, held, withValue_some]

/-- A decode that does not stop has raised `NotConstructed` or answered the decoded mirror (R193, R205). -/
theorem decodeWith_false_cases (h : decodeWith decoder false s = .next t) :
    s.life ≠ .ready ∧ t = raise false .notConstructed (accept s) ∨
      s.life = .ready ∧ ∃ w, decoder s.mirror = some w ∧ t = respond w s := by
  by_cases ready : s.life = .ready
  · rw [decodeWith_false_of_ready decoder ready] at h
    obtain ⟨w, held, answered⟩ := Transfers.withValue_cases h
    exact .inr ⟨ready, w, held, (Host.Outcome.next.inj answered).symm⟩
  · rw [decodeWith_false_of_not_ready decoder ready] at h
    exact .inl ⟨ready, (Host.Outcome.next.inj h).symm⟩

/-- A decode without the refresh has no bus activity and leaves the mirror alone (R193). -/
theorem decodeWith_false_frame (h : decodeWith decoder false s = .next t) :
    t.hist = s.hist ∧ t.answers = s.answers ∧ t.draws = s.draws ∧ t.mirror = s.mirror := by
  obtain ⟨-, rfl⟩ | ⟨-, w, -, rfl⟩ := decodeWith_false_cases h
  · exact ⟨List.append_nil s.hist, rfl, rfl, rfl⟩
  · exact ⟨rfl, rfl, rfl, rfl⟩

/-- The response of a decode without the refresh depends on the mirror and the lifecycle alone (R193). -/
theorem decodeWith_false_resp {s' : State} (mirror : s'.mirror = s.mirror) (life : s'.life = s.life)
    (h : decodeWith decoder false s = .next t) : ∃ t', decodeWith decoder false s' = .next t' ∧ t'.resp = t.resp := by
  obtain ⟨notReady, rfl⟩ | ⟨ready, w, held, rfl⟩ := decodeWith_false_cases h
  · exact ⟨_, decodeWith_false_of_not_ready decoder (life ▸ notReady), rfl⟩
  · exact ⟨_, decodeWith_false_of_held (life.trans ready) (mirror ▸ held), rfl⟩

/-- The three decoder commands are the shared decode, each with a decoder of its own (R180, R183, R188). -/
theorem exec_eq_decodeWith_false {i : Instr} (h : i = .temp false ∨ i = .cjt false ∨ i = .flt false) :
    ∃ decoder, ∀ s, exec i s = decodeWith decoder false s := by
  obtain rfl | rfl | rfl := h
  exacts [⟨_, fun _ => rfl⟩, ⟨_, fun _ => rfl⟩, ⟨_, fun _ => rfl⟩]

end Unrefreshed

/-! ### With the refresh -/

/-- The exception entry never leaves the `err` of a completed command (R200). -/
theorem raise_err_ne_zero (constructing : Bool) (c : Cause) (s : State) : (raise constructing c s).err ≠ 0 := by
  rw [raise_err]
  cases c <;> simp [Cause.code]

theorem pull_done_life {a n : Nat} {bytes : List Byte} {s t : State} (fits : burstFits a n = true)
    (done : pull a n s = .done bytes t) : t.life = s.life := by
  have outcome := pull_spec s fits
  rw [done] at outcome
  obtain ⟨-, -, untouched, -⟩ := outcome
  exact untouched.life

theorem decodeWith_true_of_ready {s : State} (decoder : Memory → Option Word) (ready : s.life = .ready) :
    decodeWith decoder true s = (pull Params.dataStart Params.dataLen (accept s)).orRaiseThen fun s2 =>
      withValue (decoder s2.mirror) fun w => .next (respond w s2) := by
  rw [decodeWith, whenReady_ready _ ((accept_life s).trans ready), if_pos rfl]

/-- The refresh is the read of `RDD`: the decode ends in `RDD`'s exception, or goes on from the state `RDD` leaves
(R193). -/
theorem decodeWith_true_of_rdd {s t : State} (h : exec .rdd s = .next t) :
    (t.err ≠ 0 ∧ ∀ decoder, decodeWith decoder true s = .next t) ∨
      (t.err = 0 ∧ ∀ decoder, decodeWith decoder true s = decodeWith decoder false t) := by
  rw [exec, execRdd] at h
  obtain ⟨notReady, rfl⟩ | ⟨ready : s.life = .ready, run⟩ := Transfers.whenReady_cases h
  · exact .inl ⟨raise_err_ne_zero _ _ _, fun decoder => whenReady_not _ notReady⟩
  cases pulled : pull Params.dataStart Params.dataLen (accept s) with
  | done bytes s2 =>
    rw [pulled, orRaise_done] at run
    obtain rfl := Host.Outcome.next.inj run
    have ready2 : (respond 0 s2).life = .ready := (pull_done_life burstFits_data pulled).trans ready
    refine .inr ⟨rfl, fun decoder => ?_⟩
    rw [decodeWith_true_of_ready decoder ready, pulled, orRaiseThen_done, decodeWith_false_of_ready decoder ready2]
    rfl
  | failed c s2 =>
    rw [pulled, orRaise_failed] at run
    obtain rfl := Host.Outcome.next.inj run
    refine .inl ⟨raise_err_ne_zero _ _ _, fun decoder => ?_⟩
    rw [decodeWith_true_of_ready decoder ready, pulled, orRaiseThen_failed]

/-- Settles O35: each of the three commands is the shared decode, whose refresh is `RDD`'s read. -/
theorem refreshIsRddThenDecode : Obligations.RefreshIsRddThenDecode := by
  refine ⟨fun s t h ok => ?_, fun s t h raised => ?_, fun i s t decodes h => ?_, fun i s s' t decodes mirror life h => ?_⟩
  · obtain ⟨raised, -⟩ | ⟨-, follows⟩ := decodeWith_true_of_rdd h
    · exact absurd ok raised
    · exact ⟨follows Memory.lt32, follows Memory.cjt, follows Memory.flt⟩
  · obtain ⟨-, follows⟩ | ⟨ok, -⟩ := decodeWith_true_of_rdd h
    · exact ⟨follows Memory.lt32, follows Memory.cjt, follows Memory.flt⟩
    · exact absurd ok raised
  · obtain ⟨decoder, shared⟩ := exec_eq_decodeWith_false decodes
    exact decodeWith_false_frame ((shared s).symm.trans h)
  · obtain ⟨decoder, shared⟩ := exec_eq_decodeWith_false decodes
    rw [shared s']
    exact decodeWith_false_resp mirror life ((shared s).symm.trans h)

/-! ### The answer of each decoder -/

theorem exec_temp_false {b0 b1 b2 b3 : Byte} {s : State} (ready : s.life = .ready)
    (held0 : s.mirror.read 0x0C = some b0) (held1 : s.mirror.read 0x0D = some b1)
    (held2 : s.mirror.read 0x0E = some b2) (held3 : s.mirror.read 0x0F = some b3) :
    exec (.temp false) s = .next (respond (assembleLt32 b0 b1 b2 b3) s) := by
  have held : s.mirror.lt32 = some (assembleLt32 b0 b1 b2 b3) := by
    simp only [Memory.lt32, Params.addrLtcbh, Params.addrLtcbm, Params.addrLtcbl, Params.addrSr, held0, held1, held2,
      held3]
  exact decodeWith_false_of_held ready held

theorem exec_cjt_false {b0 b1 : Byte} {s : State} (ready : s.life = .ready) (held0 : s.mirror.read 0x0A = some b0)
    (held1 : s.mirror.read 0x0B = some b1) : exec (.cjt false) s = .next (respond (cjtResult b0 b1) s) := by
  have held : s.mirror.cjt = some (cjtResult b0 b1) := by
    simp only [Memory.cjt, Params.addrCjth, Params.addrCjtl, held0, held1]
  exact decodeWith_false_of_held ready held

theorem exec_flt_false {sr : Byte} {s : State} (ready : s.life = .ready) (held : s.mirror.read 0x0F = some sr) :
    exec (.flt false) s = .next (respond (0#24 ++ sr) s) := by
  have held' : s.mirror.flt = some (0#24 ++ sr) := by
    rw [Memory.flt, Params.addrSr, held, Option.map_some, zextByte_eq]
  exact decodeWith_false_of_held ready held'

/-! ### The thermocouple scale (R182) -/

theorem tempFixed_value (w : Word) : (tempFixed w).value = (w.toInt : ℚ) / 1048576 := by
  norm_num [tempFixed, Fixed.value, Params.tempFracBits]

theorem tempFixed_value_injective {v w : Word} (h : (tempFixed v).value = (tempFixed w).value) : v = w := by
  rw [tempFixed_value, tempFixed_value, div_left_inj' (by norm_num)] at h
  exact BitVec.toInt_inj.mp (Int.cast_injective h)

/-- The Q11.20 range is that of the signed 32-bit word, scaled. -/
theorem tempFixed_value_mem_range (w : Word) :
    -2048 ≤ (tempFixed w).value ∧ (tempFixed w).value ≤ 2048 - 1 / 1048576 := by
  have low : (-2147483648 : ℚ) ≤ w.toInt := by exact_mod_cast BitVec.le_toInt w
  have high : (w.toInt : ℚ) ≤ 2147483647 := by exact_mod_cast Int.le_of_lt_add_one (BitVec.toInt_lt (x := w))
  rw [tempFixed_value]
  constructor <;> linarith

/-- Settles O38: the value is the signed word scaled, so its range and its injectivity are those of the word. -/
theorem thermocoupleScaleIsExact : Obligations.ThermocoupleScaleIsExact := by
  refine ⟨tempFixed_value, fun _ _ => tempFixed_value_injective, tempFixed_value_mem_range, ?_, ?_, ?_,
    fun b0 b1 b2 b3 s ready held0 held1 held2 held3 =>
      ⟨_, _, exec_temp_false ready held0 held1 held2 held3, respond_resp _ _, tempFixed_value _⟩⟩
  · have : (0x80000000#32).toInt = -2147483648 := by decide
    norm_num [tempFixed_value, this]
  · have : (0x7FFFFFFF#32).toInt = 2147483647 := by decide
    norm_num [tempFixed_value, this]
  · have : (0x000186A0#32).toInt = 100000 := by decide
    norm_num [tempFixed_value, this]

/-! ### The cold-junction scale (R185) -/

/-- Extension with the sign keeps the signed value (R183). -/
theorem cjtResult_toInt (h l : Byte) : (cjtResult h l).toInt = (h ++ l : BitVec 16).toInt :=
  BitVec.toInt_signExtend_of_le (by decide)

theorem cjFixed_value (w : Word) : (cjFixed w).value = (w.toInt : ℚ) / 256 := by
  norm_num [cjFixed, Fixed.value, Params.cjFracBits]

theorem cjFixed_cjtResult_value (h l : Byte) :
    (cjFixed (cjtResult h l)).value = (((h ++ l : BitVec 16).toInt : ℤ) : ℚ) / 256 := by
  rw [cjFixed_value, cjtResult_toInt]

/-- The cold-junction range is that of the signed 16-bit word, scaled. -/
theorem cjFixed_cjtResult_value_mem_range (h l : Byte) :
    -128 ≤ (cjFixed (cjtResult h l)).value ∧ (cjFixed (cjtResult h l)).value ≤ 12799609375 / 100000000 := by
  have low : (-32768 : ℚ) ≤ (h ++ l : BitVec 16).toInt := by exact_mod_cast BitVec.le_toInt (h ++ l : BitVec 16)
  have high : ((h ++ l : BitVec 16).toInt : ℚ) ≤ 32767 := by
    exact_mod_cast Int.le_of_lt_add_one (BitVec.toInt_lt (x := (h ++ l : BitVec 16)))
  rw [cjFixed_cjtResult_value]
  constructor <;> linarith

/-- Settles O39: the answer keeps the signed value of the two bytes, which the scale divides by 256. -/
theorem coldJunctionScaleIsExact : Obligations.ColdJunctionScaleIsExact := by
  refine ⟨cjFixed_cjtResult_value, cjFixed_cjtResult_value_mem_range, ?_, ?_, fun b0 b1 s ready held0 held1 =>
    ⟨_, _, exec_cjt_false ready held0 held1, respond_resp _ _, cjtResult_toInt b0 b1, cjFixed_cjtResult_value b0 b1⟩⟩
  · have : (0x19#8 ++ 0x00#8 : BitVec 16).toInt = 6400 := by decide
    norm_num [cjFixed_cjtResult_value, this]
  · have : (0xF7#8 ++ 0x00#8 : BitVec 16).toInt = -2304 := by decide
    norm_num [cjFixed_cjtResult_value, this]

/-! ### The fault flags (R189) -/

theorem faultBit_lt (f : SensorFault) : f.bit < 8 := by cases f <;> decide

theorem mem_allFaults (f : SensorFault) : f ∈ SensorFault.all := by cases f <;> decide

/-- The zero extension of the status byte keeps every flag at its bit (R188, R189). -/
theorem getLsbD_answer (sr : Byte) (f : SensorFault) : (0#24 ++ sr : Word).getLsbD f.bit = faultFlag sr f := by
  change (0#24 ++ sr : BitVec (24 + 8)).getLsbD f.bit = sr.getLsbD f.bit
  rw [BitVec.getLsbD_append, if_pos (faultBit_lt f)]

theorem mem_activeFaults_iff (sr : Byte) (f : SensorFault) : f ∈ activeFaults sr ↔ sr.getLsbD f.bit = true := by
  rw [activeFaults, List.mem_filter, faultFlag, and_iff_right (mem_allFaults f)]

/-- Settles O43: the answer keeps the status bits, and the mask register lies outside what `FLT` reads. -/
theorem fltReportsAllActiveFaults : Obligations.FltReportsAllActiveFaults := by
  refine ⟨fun sr f => ⟨getLsbD_answer sr f, mem_activeFaults_iff sr f⟩, fun sr mask s ready held => ?_⟩
  have held' : (s.mirror.write 0x02 mask).read 0x0F = some sr :=
    (Memory.read_write_other _ _ (by decide)).trans held
  exact ⟨_, exec_flt_false ready held', respond_resp _ _⟩

end Sys2Proof.Decoders

/-! PROOFS. The exceptions (spec/60_exceptions.md R200 to R205): the refusals that come before any bus activity and
change nothing but the answer, and the one command that ends with code 1. -/

namespace Sys2Proof.Exceptions

open Machine

/-! ### Refusals before any bus activity -/

/-- An exception outside a transaction leaves a quiescent controller as it was, but for the answer (R210). -/
theorem raise_accept_of_quiescent {s : State} {c : Cause} (quiet : Quiescent s) (noEvent : c.failureEvents = []) :
    raise false c (accept s) = { s with err := c.code, resp := some { status := c.code, rsp := c.info } } := by
  rw [raise_of_inactive false (s := accept s) quiet.cs quiet.phase noEvent rfl]
  simp [accept, quiet.busy]

/-- A controller that is not busy runs the request presented next (R70). -/
theorem step_of_request {s : State} {q : Request} {rest : List PortInput} (presented : s.port = .request q :: rest)
    (notBusy : s.busy = false) : step s = runRequest q { s with port := rest } := by
  simp [step, stepPort, presented, notBusy]

theorem runRequest_of_decodeCommand_eq_error {c : Word} {e : DecodeError} (s : State)
    (illegal : decodeCommand c = .error e) : runRequest (.command c) s = .next (illegalCommand c s) := by
  simp [runRequest, decode, illegal]

/-- Settles O4: the word is taken from the port, and its refusal changes nothing but the answer. -/
theorem illegalWordRaisesIllegalCommand : Obligations.IllegalWordRaisesIllegalCommand := by
  intro s c rest e presented quiet illegal
  have quiet' : Quiescent { s with port := rest } := ⟨quiet.busy, quiet.cs, quiet.phase, quiet.delay⟩
  rw [step_of_request presented quiet.busy, runRequest_of_decodeCommand_eq_error _ illegal, illegalCommand,
    raise_accept_of_quiescent quiet' rfl]
  rfl

/-- Every command but `INIT` begins with the lifecycle check (R205). -/
theorem exec_of_not_ready {i : Instr} {s : State} (guarded : needsReady i = true) (notReady : s.life ≠ .ready) :
    exec i s = .next (raise false .notConstructed (accept s)) := by
  cases i with
  | init | busRead | busWrite => cases guarded
  | _ =>
    simp only [exec, execRdr, execWrr, execRdd, execOneshot, execTemp, execCjt, execFlt, execMld, execMst, decodeWith]
    exact whenReady_not _ notReady

/-- Settles O9: the lifecycle check comes first and refuses. -/
theorem notConstructedRefusesEveryCommandButInit : Obligations.NotConstructedRefusesEveryCommandButInit := by
  intro i s guarded notReady quiet
  rw [exec_of_not_ready guarded notReady, raise_accept_of_quiescent quiet rfl]
  rfl

/-- The range check comes right after the lifecycle check and refuses a range that overruns (R68, R203). -/
theorem whenReady_whenInRange_out {start : BitVec 4} {count : BitVec 5} {s : State}
    (k : State → Host.Outcome State Fault Refusal) (ready : s.life = .ready) (quiet : Quiescent s)
    (past : 16 < start.toNat + count.toNat) :
    whenReady (accept s) (fun s1 => whenInRange start count s1 k) =
      .next { s with err := 3, resp := some { status := 3, rsp := 0#20 ++ start ++ 0#3 ++ count } } := by
  rw [whenReady_ready (s := accept s) _ ready, whenInRange_out _ k past, raise_accept_of_quiescent quiet rfl,
    info_rangeError]
  rfl

/-- Settles O10: `RDR` and `WRR` share the two checks. -/
theorem rangeErrorRefusesOverrun : Obligations.RangeErrorRefusesOverrun :=
  fun _ _ _ ready quiet past =>
    ⟨whenReady_whenInRange_out _ ready quiet past, whenReady_whenInRange_out _ ready quiet past⟩

/-! ### Which codes the shared pieces can end in -/

section Codes

variable {s t : State} {e : BitVec 4} {k : State → Host.Outcome State Fault Refusal} {cont : State → State}

/-- The lifecycle check ends a command with code 5 only (R205). -/
theorem whenReady_err_ne (refused : 5 ≠ e) (h : whenReady s k = .next t) (run : k s = .next t → t.err ≠ e) :
    t.err ≠ e := by
  obtain ⟨-, rfl⟩ | ⟨-, passed⟩ := Transfers.whenReady_cases h
  · exact refused
  · exact run passed

/-- The range check ends a command with code 3 only (R203). -/
theorem whenInRange_err_ne {start : BitVec 4} {count : BitVec 5} (refused : 3 ≠ e)
    (h : whenInRange start count s k = .next t) (run : k s = .next t → t.err ≠ e) : t.err ≠ e := by
  obtain ⟨-, rfl⟩ | ⟨-, passed⟩ := Transfers.whenInRange_cases h
  · exact refused
  · exact run passed

/-- A failed read ends a command with code 2 (R202). -/
theorem pull_failed_code {a n : Nat} {c : Cause} (h : pull a n s = .failed c t) : c.code = 2 := by
  obtain ⟨A, D, ⟨x, bytes, -, done⟩ | ⟨rs, -, failed⟩⟩ := pull_cases a n s.answers s.draws
  · rw [done s rfl rfl] at h
    cases h
  · rw [failed s rfl rfl] at h
    cases h
    rfl

/-- A failed write ends a command with code 2 (R202). -/
theorem busWrite_failed_code {a : Nat} {payload : List Byte} {c : Cause} (h : busWrite a payload s = .failed c t) :
    c.code = 2 := by
  obtain ⟨A, D, done | ⟨rs, -, failed⟩⟩ := busWrite_cases a payload s.answers s.draws
  · rw [done s rfl rfl] at h
    cases h
  · rw [failed s rfl rfl] at h
    cases h
    rfl

theorem orRaise_err_ne {tx : Tx} (constructing : Bool) (transport : 2 ≠ e)
    (failure : ∀ c u, tx = .failed c u → c.code = 2) (goesOn : ∀ u, (cont u).err ≠ e) :
    (tx.orRaise constructing cont).err ≠ e := by
  cases tx with
  | done bytes u => exact goesOn u
  | failed c u =>
    rw [orRaise_failed, raise_err, failure c u rfl]
    exact transport

theorem pull_orRaise_err_ne (a n : Nat) (constructing : Bool) (transport : 2 ≠ e) (goesOn : ∀ u, (cont u).err ≠ e) :
    ((pull a n s).orRaise constructing cont).err ≠ e :=
  orRaise_err_ne constructing transport (fun _ _ => pull_failed_code) goesOn

theorem busWrite_orRaise_err_ne (a : Nat) (payload : List Byte) (constructing : Bool) (transport : 2 ≠ e)
    (goesOn : ∀ u, (cont u).err ≠ e) : ((busWrite a payload s).orRaise constructing cont).err ≠ e :=
  orRaise_err_ne constructing transport (fun _ _ => busWrite_failed_code) goesOn

/-- A completed command ends with no code (R200). -/
theorem respond_err_ne (completed : 0 ≠ e) (rsp : Word) (u : State) : (respond rsp u).err ≠ e := completed

theorem withValue_respond_err_ne {α : Type} {v : Option α} {rsp : α → Word} (completed : 0 ≠ e)
    (h : (withValue v fun x => .next (respond (rsp x) s)) = .next t) : t.err ≠ e := by
  obtain ⟨x, -, answered⟩ := Transfers.withValue_cases h
  rw [← Host.Outcome.next.inj answered]
  exact respond_err_ne completed _ _

end Codes

/-! ### Code 1 comes from `INIT` alone -/

section CodeOne

variable {s t : State}

theorem exec_rdr_err_ne_one {start : BitVec 4} {count : BitVec 5} (h : exec (.rdr start count) s = .next t) :
    t.err ≠ 1 := by
  rw [exec, execRdr] at h
  refine whenReady_err_ne (by decide) h fun h => whenInRange_err_ne (by decide) h fun h => ?_
  rw [← Host.Outcome.next.inj h]
  exact pull_orRaise_err_ne _ _ _ (by decide) (respond_err_ne (by decide) 0)

theorem exec_wrr_err_ne_one {start : BitVec 4} {count : BitVec 5} (h : exec (.wrr start count) s = .next t) :
    t.err ≠ 1 := by
  rw [exec, execWrr] at h
  refine whenReady_err_ne (by decide) h fun h => whenInRange_err_ne (by decide) h fun h => ?_
  obtain ⟨payload, -, h⟩ := Transfers.withValue_cases h
  rw [← Host.Outcome.next.inj h]
  exact busWrite_orRaise_err_ne _ _ _ (by decide) (respond_err_ne (by decide) 0)

theorem exec_oneshot_err_ne_one (h : exec .oneshot s = .next t) : t.err ≠ 1 := by
  rw [exec, execOneshot] at h
  refine whenReady_err_ne (by decide) h fun h => ?_
  obtain ⟨old, -, h⟩ := Transfers.withValue_cases h
  rw [← Host.Outcome.next.inj h]
  exact busWrite_orRaise_err_ne _ _ _ (by decide) fun _ =>
    pull_orRaise_err_ne _ _ _ (by decide) (respond_err_ne (by decide) 0)

/-- The decode that `TEMP`, `CJT` and `FLT` share: past the lifecycle check only its refresh can fail (R193). -/
theorem decodeWith_err_ne_one {decoder : Memory → Option Word} {r : Bool} (h : decodeWith decoder r s = .next t) :
    t.err ≠ 1 := by
  refine whenReady_err_ne (by decide) h fun h => ?_
  cases r with
  | false => exact withValue_respond_err_ne (rsp := id) (by decide) h
  | true =>
    rw [if_pos rfl] at h
    cases pulled : pull Params.dataStart Params.dataLen (accept s) with
    | done bytes u =>
      rw [pulled, orRaiseThen_done] at h
      exact withValue_respond_err_ne (rsp := id) (by decide) h
    | failed c u =>
      rw [pulled, orRaiseThen_failed] at h
      rw [← Host.Outcome.next.inj h, raise_err, pull_failed_code pulled]
      decide

/-- No command but `INIT` ends with code 1 (R201). -/
theorem exec_err_ne_one_of_needsReady {i : Instr} (guarded : needsReady i = true) (h : exec i s = .next t) :
    t.err ≠ 1 := by
  cases i with
  | init | busRead | busWrite => cases guarded
  | rdr => exact exec_rdr_err_ne_one h
  | wrr => exact exec_wrr_err_ne_one h
  | rdd => exact exec_rdr_err_ne_one ((Transfers.exec_rdd_eq_exec_rdr s).symm.trans h)
  | oneshot => exact exec_oneshot_err_ne_one h
  | temp | cjt | flt => exact decodeWith_err_ne_one h
  | mld =>
    rw [exec, execMld] at h
    exact whenReady_err_ne (by decide) h (withValue_respond_err_ne (by decide))
  | mst =>
    rw [exec, execMst] at h
    refine whenReady_err_ne (by decide) h fun h => ?_
    rw [← Host.Outcome.next.inj h]
    exact respond_err_ne (by decide) _ _

/-- Nor does `INIT` with a recognized type: only its three transactions can fail (R201, R212). -/
theorem exec_init_err_ne_one {tsel : BitVec 4} {cr0v cr1v : Bool} {cr0 cr1 : Byte} (recognized : tsel.toNat ≤ 9)
    (h : exec (.init tsel cr0v cr1v cr0 cr1) s = .next t) : t.err ≠ 1 := by
  obtain ⟨ty, named⟩ := ofSelector_some recognized
  rw [← Host.Outcome.next.inj h]
  refine pull_orRaise_err_ne _ _ _ (by decide) fun _ => ?_
  rw [Construction.initType_recognized _ _ _ named]
  exact busWrite_orRaise_err_ne _ _ _ (by decide) fun _ =>
    pull_orRaise_err_ne _ _ _ (by decide) fun _ => respond_err_ne (by decide) _ _

/-- A command that ends with code 1 is `INIT` with an unrecognized type (R201). -/
theorem init_of_err_eq_one {i : Instr} (h : exec i s = .next t) (command : isCommand i = true) (raised : t.err = 1) :
    ∃ tsel cr0v cr1v cr0 cr1, i = .init tsel cr0v cr1v cr0 cr1 ∧ 9 < tsel.toNat := by
  cases i with
  | init tsel cr0v cr1v cr0 cr1 =>
    refine ⟨tsel, cr0v, cr1v, cr0, cr1, rfl, Nat.lt_of_not_le fun recognized => ?_⟩
    exact exec_init_err_ne_one recognized h raised
  | busRead | busWrite => cases command
  | _ => exact absurd raised (exec_err_ne_one_of_needsReady rfl h)

end CodeOne

/-! ### `INIT` with an unrecognized type -/

/-- With an unrecognized type the lookup ends the construction, before CR1 is staged (R201). -/
theorem initType_unrecognized {tsel : BitVec 4} (avg c0 : Byte) (s : State) (unrecognized : 9 < tsel.toNat) :
    initType tsel avg c0 s = raise true (.invalidThermocoupleType tsel) s := by
  rw [initType, ofSelector_none unrecognized]

/-- With an unrecognized type `INIT` ends after the full read, with CR0 staged (R201). -/
theorem exec_init_unrecognized {tsel : BitVec 4} {cr0v cr1v : Bool} {cr0 cr1 x : Byte} {first : List Byte}
    {rest : List Answer} {s : State} (unrecognized : 9 < tsel.toNat) (length : first.length = 16)
    (heard : Heard s (x :: first) rest) :
    exec (.init tsel cr0v cr1v cr0 cr1) s =
      .next (raise true (.invalidThermocoupleType tsel)
        (stage 0 (chosenCr0 cr0v cr0) (Construction.afterFullRead x first rest s))) := by
  rw [Construction.exec_init_of_fullRead heard length, initType_unrecognized _ _ _ unrecognized]

/-- Settles O23: the full read completes and CR0 is staged, then the lookup fails; no other command ends with code 1. -/
theorem initRejectsUnrecognizedTypes : Obligations.InitRejectsUnrecognizedTypes := by
  refine ⟨fun i s t => init_of_err_eq_one, ?_⟩
  intro tsel cr0v cr1v cr0 cr1 x first rest s unrecognized length heard
  refine ⟨_, exec_init_unrecognized unrecognized length heard, rfl, ?_, rfl, rfl, rfl, rfl, List.append_nil _, rfl,
    Memory.read_write_same _ _ _, fun a above inside => ?_⟩
  · rw [raise_resp, info_invalidThermocoupleType]
    rfl
  · refine (Memory.read_write_other _ _ (by omega)).trans ?_
    exact (Memory.read_writeRange first s.mirror 0 a).trans (if_pos ⟨Nat.zero_le a, by omega⟩)

end Sys2Proof.Exceptions


/-! PROOFS. The reset input (spec/70_reset_and_hazards.md R230): the state it leaves. -/

namespace Sys2Proof.ResetInput

open Machine

/-- The reset input acts at once, busy or not, and is taken from the port (R230). -/
theorem step_of_reset {s : State} {rest : List PortInput} (presented : s.port = .reset :: rest) :
    step s = .next (assertReset { s with port := rest }) := by
  simp only [step, stepPort, presented]

/-- After the reset input no address of the mirror holds a value (R42). -/
theorem assertReset_mirror_read (s : State) (a : Nat) : (assertReset s).mirror.read a = none := by
  rw [assertReset_mirror]
  exact Memory.read_nil a

/-- Settles O1: the step is `assertReset` with the input taken from the port; the fields are those of `State.reset`, and
what the outside holds stays. -/
theorem resetInputLeavesResetValues : Obligations.ResetInputLeavesResetValues := by
  intro s rest presented
  exact ⟨_, step_of_reset presented, assertReset_mirror_read _, assertReset_cs _, assertReset_phase _, assertReset_life _,
    assertReset_err _, assertReset_busy _, congrArg BusCfg.configured (assertReset_buscfg _), assertReset_hist _,
    assertReset_wire _, assertReset_answers _, assertReset_draws _, assertReset_port _⟩

end Sys2Proof.ResetInput

/-! PROOFS. The encoder and the decoder are inverse to each other (spec/30_encoding.md R91 to R93, R96, R101). -/

namespace Sys2Proof.Encoding

open Machine Laws.EncodesInRow Decoding

/-! ### Command words -/

/-- Every command word the encoder forms lies in the row of its instruction (R100). -/
theorem agrees_of_encode_eq_command {i : Instr} {c : Word} (encoded : encode i = .command c) :
    c &&& rowMask i = rowMatch i := by
  have inRow : Statement i := by
    cases i with
    | init => exact Laws.EncodesInRow.init ..
    | rdr => exact Laws.EncodesInRow.rdr ..
    | wrr => exact Laws.EncodesInRow.wrr ..
    | rdd => exact Laws.EncodesInRow.rdd
    | oneshot => exact Laws.EncodesInRow.oneshot
    | temp => exact Laws.EncodesInRow.temp ..
    | cjt => exact Laws.EncodesInRow.cjt ..
    | flt => exact Laws.EncodesInRow.flt ..
    | mld => exact Laws.EncodesInRow.mld ..
    | mst => exact Laws.EncodesInRow.mst ..
    | busRead | busWrite => cases encoded
  rw [Statement, encoded] at inRow
  exact Option.some.inj inRow

/-- The row of an encoded command decodes it, and every field is cut out of the word where the encoder put it (R96). -/
theorem decodeCommand_of_encode_eq_command {i : Instr} {c : Word} (encoded : encode i = .command c) :
    decodeCommand c = .ok i := by
  have agrees := agrees_of_encode_eq_command encoded
  obtain ⟨-, rows⟩ := commandWordsDecodeByTheirRow
  obtain ⟨init, rdr, wrr, rdd, oneshot, temp, cjt, flt, mld, mst⟩ := rows c
  cases i
  case busRead | busWrite => cases encoded
  case rdd => exact rdd.mp agrees
  case oneshot => exact oneshot.mp agrees
  case' init => rw [init.mp agrees]
  case' rdr => rw [rdr.mp agrees]
  case' wrr => rw [wrr.mp agrees]
  case' temp => rw [temp.mp agrees]
  case' cjt => rw [cjt.mp agrees]
  case' flt => rw [flt.mp agrees]
  case' mld => rw [mld.mp agrees]
  case' mst => rw [mst.mp agrees]
  all_goals
    rw [← Request.command.inj encoded]
    simp only [BitVec.extractLsb'_append_eq_of_le, BitVec.extractLsb'_append_eq_right, BitVec.getLsbD_append,
      BitVec.getLsbD_ofBool, Nat.reduceLeDiff, Nat.reduceSub, Nat.reduceLT, Nat.le_refl, Nat.sub_self, reduceIte,
      decide_true, Bool.true_and, -Nat.reduceAdd]

/-- A part of the word that the row's mask covers reads as in the row's match (R100). -/
theorem field_of_agrees {c mask pattern : Word} {start len : Nat} (agrees : c &&& mask = pattern)
    (covered : mask.extractLsb' start len = BitVec.allOnes len) :
    c.extractLsb' start len = pattern.extractLsb' start len := by
  rw [← agrees, BitVec.extractLsb'_and, covered, BitVec.and_allOnes]

/-- A flag field is a field of one bit. -/
theorem ofBool_getLsbD (c : Word) (k : Nat) : BitVec.ofBool (c.getLsbD k) = c.extractLsb' k 1 := by
  ext j inside
  obtain rfl : j = 0 := Nat.lt_one_iff.mp inside
  simp

/-! A word is the concatenation of its fields; the parts that the format fixes are given (R96). -/

theorem rangeWord_eq {c : Word} {op : BitVec 4} (opcode : c.extractLsb' 28 4 = op)
    (reserved : c.extractLsb' 0 19 = 0#19) : (op ++ fieldHigh c ++ fieldCount c ++ 0#19 : Word) = c := by
  rw [← opcode, ← reserved, fieldHigh, fieldCount]
  simp only [BitVec.extractLsb'_append_extractLsb'_eq_extractLsb']
  exact BitVec.extractLsb'_eq_self

theorem decoderWord_eq {c : Word} {op : BitVec 4} (opcode : c.extractLsb' 28 4 = op)
    (reserved : c.extractLsb' 0 27 = 0#27) : (op ++ BitVec.ofBool (fieldRefresh c) ++ 0#27 : Word) = c := by
  rw [← opcode, ← reserved, fieldRefresh, ofBool_getLsbD]
  simp only [BitVec.extractLsb'_append_extractLsb'_eq_extractLsb']
  exact BitVec.extractLsb'_eq_self

theorem loadWord_eq {c : Word} {op : BitVec 4} (opcode : c.extractLsb' 28 4 = op)
    (reserved : c.extractLsb' 0 24 = 0#24) : (op ++ fieldHigh c ++ 0#24 : Word) = c := by
  rw [← opcode, ← reserved, fieldHigh]
  simp only [BitVec.extractLsb'_append_extractLsb'_eq_extractLsb']
  exact BitVec.extractLsb'_eq_self

theorem storeWord_eq {c : Word} {op : BitVec 4} (opcode : c.extractLsb' 28 4 = op)
    (reserved : c.extractLsb' 8 16 = 0#16) : (op ++ fieldHigh c ++ 0#16 ++ c.extractLsb' 0 8 : Word) = c := by
  rw [← opcode, ← reserved, fieldHigh]
  simp only [BitVec.extractLsb'_append_extractLsb'_eq_extractLsb']
  exact BitVec.extractLsb'_eq_self

theorem initWord_eq {c : Word} {op : BitVec 4} (opcode : c.extractLsb' 28 4 = op)
    (reserved : c.extractLsb' 16 6 = 0#6) :
    (op ++ fieldHigh c ++ BitVec.ofBool (c.getLsbD 23) ++ BitVec.ofBool (c.getLsbD 22) ++ 0#6 ++ c.extractLsb' 8 8 ++
      c.extractLsb' 0 8 : Word) = c := by
  rw [← opcode, ← reserved, fieldHigh, ofBool_getLsbD, ofBool_getLsbD]
  simp only [BitVec.extractLsb'_append_extractLsb'_eq_extractLsb']
  exact BitVec.extractLsb'_eq_self

/-- What decodes is the word of its format: opcode and reserved bits are those of the row's match (R100, R101). -/
theorem encode_of_decodeCommand_eq_ok {c : Word} {i : Instr} (decoded : decodeCommand c = .ok i) :
    encode i = .command c := by
  unfold decodeCommand at decoded
  split at decoded
  case h_11 => cases decoded
  all_goals
    obtain ⟨agrees, rfl⟩ := checkRow_eq_ok_iff.mp decoded
    refine congrArg Request.command ?_
  case h_4 | h_5 => exact agrees.symm.trans BitVec.and_allOnes
  case h_1 => exact initWord_eq (field_of_agrees agrees rfl) (field_of_agrees agrees rfl)
  case h_2 | h_3 => exact rangeWord_eq (field_of_agrees agrees rfl) (field_of_agrees agrees rfl)
  case h_6 | h_7 | h_8 => exact decoderWord_eq (field_of_agrees agrees rfl) (field_of_agrees agrees rfl)
  case h_9 => exact loadWord_eq (field_of_agrees agrees rfl) (field_of_agrees agrees rfl)
  case h_10 => exact storeWord_eq (field_of_agrees agrees rfl) (field_of_agrees agrees rfl)

/-! ### Frames -/

/-- The address byte of a read: no write indicator, the address in bits 6:0 (R91). -/
theorem readAddress (a : BitVec 7) :
    BitVec.ofNat 8 a.toNat &&& Params.writeFlag ≠ Params.writeFlag ∧ (BitVec.ofNat 8 a.toNat).extractLsb' 0 7 = a := by
  revert a
  decide

/-- The address byte of a write: the write indicator, the address in bits 6:0 (R91). -/
theorem writeAddress (a : BitVec 7) :
    (Params.writeFlag ||| BitVec.ofNat 8 a.toNat) &&& Params.writeFlag = Params.writeFlag ∧
      (Params.writeFlag ||| BitVec.ofNat 8 a.toNat).extractLsb' 0 7 = a := by
  revert a
  decide

/-- The write indicator and the address are all of an address byte (R91). -/
theorem addressByte_eq (b : Byte) :
    (if b &&& Params.writeFlag = Params.writeFlag then Params.writeFlag else 0#8) |||
      BitVec.ofNat 8 (b.extractLsb' 0 7).toNat = b := by
  revert b
  decide

theorem decodeFrame_readFrame {a : BitVec 7} {n : BitVec 5} (fits : n.toNat ≤ 16) :
    decodeFrame (readFrame a.toNat n.toNat) = .ok (.busRead a n) := by
  obtain ⟨noFlag, address⟩ := readAddress a
  rw [readFrame, decodeFrame, List.length_replicate, if_neg (Nat.not_lt.mpr fits), if_neg noFlag, if_pos rfl, address,
    BitVec.ofNat_toNat, BitVec.setWidth_eq]

theorem decodeFrame_writeFrame {a : BitVec 7} {payload : List Byte} (fits : payload.length ≤ 16) :
    decodeFrame (writeFrame a.toNat payload) = .ok (.busWrite a payload) := by
  obtain ⟨flag, address⟩ := writeAddress a
  rw [writeFrame, decodeFrame, if_neg (Nat.not_lt.mpr fits), if_pos flag, address]

theorem encode_of_decodeFrame_eq_ok {bytes : List Byte} {i : Instr} (decoded : decodeFrame bytes = .ok i) :
    encode i = .frame bytes := by
  cases bytes with
  | nil => cases decoded
  | cons b data =>
    have byte := addressByte_eq b
    obtain ⟨fits, ⟨isWrite, rfl⟩ | ⟨isRead, fill, rfl⟩⟩ := decodeFrame_cons_cases decoded
    · rw [if_pos isWrite] at byte
      rw [encode, writeFrame, byte]
    · rw [if_neg isRead, BitVec.zero_or] at byte
      have count : (BitVec.ofNat 5 data.length).toNat = data.length := by
        rw [BitVec.toNat_ofNat, Nat.mod_eq_of_lt (by omega)]
      rw [encode, readFrame, byte, count, ← fill]

/-! ### Both directions -/

/-- Settles O7: an encoded command is decoded by its row, an encoded frame by its first byte and its length. -/
theorem decodeOfEncodeIsIdentity : Obligations.DecodeOfEncodeIsIdentity := by
  intro i wellFormed
  cases i with
  | busRead a n =>
    obtain ⟨-, fits⟩ := (burstFits_iff _ _).mp wellFormed
    exact decodeFrame_readFrame (by omega)
  | busWrite a payload =>
    obtain ⟨-, fits⟩ := (burstFits_iff _ _).mp wellFormed
    exact decodeFrame_writeFrame (by omega)
  | rdd => exact decodeCommand_of_encode_eq_command (i := .rdd) rfl
  | oneshot => exact decodeCommand_of_encode_eq_command (i := .oneshot) rfl
  | _ => exact decodeCommand_of_encode_eq_command rfl

/-- Settles O8: a word is the concatenation of its fields and the bits its row fixes; a frame is its address byte and
its data. -/
theorem encodeOfDecodeIsIdentity : Obligations.EncodeOfDecodeIsIdentity := by
  intro q i decoded
  cases q with
  | command c => exact encode_of_decodeCommand_eq_ok decoded
  | frame bytes => exact encode_of_decodeFrame_eq_ok decoded

/-- Settles O6: each word and frame is evaluated. -/
theorem specWordsDecode : Obligations.SpecWordsDecode := by
  refine ⟨?_, ?_, ?_, ?_, ?_, ?_, ?_, ?_, ?_⟩ <;> rfl

end Sys2Proof.Encoding

/-! PROOFS. Every instruction is a short list of operations between its acceptance and its answer: `exec` runs the list
the instruction plans (spec/40_bus_transactions.md, 41_init_config.md, 42_one_shot.md, 43_decoder.md). A property of all
instructions is then proved operation by operation. -/

namespace Sys2Proof.Plan

open Machine

/-- What an instruction does between its acceptance and its end. -/
inductive Op where
  /-- Steps 1 and 2 of `INIT` (R151). -/
  | configure
  /-- A mirror byte is staged (R21). -/
  | stage (a : Nat) (b : Byte)
  /-- A write transaction (R121). -/
  | push (a : Nat) (payload : List Byte)
  /-- A read transaction that leaves the mirror alone (R125). -/
  | read (a n : Nat)
  /-- A read transaction into the mirror (R124). -/
  | pull (a n : Nat)
  /-- The settling delay (R173). -/
  | wait
  /-- The type lookup that fails (R201). -/
  | reject (tsel : BitVec 4)

/-- What an operation does to the state. -/
def Op.run : Op → State → Tx
  | .configure, s => .done [] (initConfigure (initRelease s))
  | .stage a b, s => .done [] (Machine.stage a b s)
  | .push a payload, s => busWrite a payload s
  | .read a n, s => busRead a n s
  | .pull a n, s => Machine.pull a n s
  | .wait, s => .done [] (expireDelay (startDelay s))
  | .reject tsel, s => .failed (.invalidThermocoupleType tsel) s

/-- Operations in a row; the first that fails ends the instruction (R11). -/
def runAll : List Op → State → Tx
  | [], s => .done [] s
  | op :: ops, s =>
    match op.run s with
    | .done _ u => runAll ops u
    | .failed c u => .failed c u

/-! ### The plan of each instruction -/

/-- The range an instruction is turned away for (R203; log entry 11). -/
def overrun : Instr → Option Cause
  | .rdr start count => if start.toNat + count.toNat ≤ 16 then none else some (.rangeError (start.setWidth 7) count)
  | .wrr start count => if start.toNat + count.toNat ≤ 16 then none else some (.rangeError (start.setWidth 7) count)
  | .busRead a n => if burstFits a.toNat n.toNat then none else some (.rangeError a n)
  | .busWrite a payload =>
    if burstFits a.toNat payload.length then none else some (.rangeError a (BitVec.ofNat 5 payload.length))
  | _ => none

/-- Why an instruction is turned away before it does anything (R203, R205). -/
def refusal (i : Instr) (life : Life) : Option Cause :=
  if needsReady i = true ∧ life ≠ .ready then some .notConstructed else overrun i

/-- Steps 5 to 8 of `INIT` (R154 to R158, R201). -/
def typeOps (tsel : BitVec 4) (avg c0 : Byte) : List Op :=
  match Thermocouple.ofSelector tsel with
  | none => [.reject tsel]
  | some ty => [.stage 1 (mergeCr1 avg ty.code), .stage 2 0x00#8, .push 0 [c0, mergeCr1 avg ty.code, 0x00#8], .pull 0 3]

/-- The refresh of a decoder command (R193). -/
def refreshOps (r : Bool) : List Op := if r then [.pull 0x0A 6] else []

/-- What an instruction does, when the mirror holds the bytes it sends. -/
def plan (i : Instr) (m : Memory) : Option (List Op) :=
  match i with
  | .init tsel cr0v cr1v cr0 cr1 =>
    some (.configure :: .pull 0 16 :: .stage 0 (chosenCr0 cr0v cr0) ::
      typeOps tsel (chosenAvg cr1v cr1) (chosenCr0 cr0v cr0))
  | .rdr start count => some [.pull start.toNat count.toNat]
  | .wrr start count => (m.readRange start.toNat count.toNat).map fun payload => [.push start.toNat payload]
  | .rdd => some [.pull 0x0A 6]
  | .oneshot =>
    (m.read 0).map fun old => [.stage 0 (oneShotCr0 old), .push 0 [oneShotCr0 old], .wait, .pull 0x0A 6]
  | .temp r => some (refreshOps r)
  | .cjt r => some (refreshOps r)
  | .flt r => some (refreshOps r)
  | .mld _ => some []
  | .mst addr data => some [.stage addr.toNat data]
  | .busRead a n => some [.read a.toNat n.toNat]
  | .busWrite a payload => some [.push a.toNat payload]

/-- The data word a completed instruction answers, when the mirror holds the bytes it decodes (R99). -/
def answer (i : Instr) (m : Memory) : Option Word :=
  match i with
  | .temp _ => m.lt32
  | .cjt _ => m.cjt
  | .flt _ => m.flt
  | .mld addr => (m.read addr.toNat).map zextByte
  | _ => some 0

/-- How a completed instruction ends (R99, R160; log entry 4). -/
def finish (i : Instr) (rsp : Word) (s : State) : State :=
  match i with
  | .init _ _ _ _ _ => initComplete s
  | .busRead _ _ => release s
  | .busWrite _ _ => release s
  | _ => respond rsp s

/-- The end of an instruction whose operations have run. -/
def conclude (i : Instr) : Tx → Host.Outcome State Fault Refusal
  | .done _ u => withValue (answer i u.mirror) fun rsp => .next (finish i rsp u)
  | .failed c u => .next (raise (isInit i) c u)

/-- The operations of an instruction that has not been turned away, and its end. -/
def runPlan (i : Instr) (s : State) : Host.Outcome State Fault Refusal :=
  withValue (plan i s.mirror) fun ops => conclude i (runAll ops (accept s))

/-! ### The plan is what `exec` does -/

@[simp] theorem runAll_nil (s : State) : runAll [] s = .done [] s := rfl

theorem runAll_cons (op : Op) (ops : List Op) (s : State) :
    runAll (op :: ops) s = match op.run s with
      | .done _ u => runAll ops u
      | .failed c u => .failed c u := rfl

section

variable {s : State}

theorem conclude_cons (i : Instr) (op : Op) (ops : List Op) :
    conclude i (runAll (op :: ops) s) = match op.run s with
      | .done _ u => conclude i (runAll ops u)
      | .failed c u => .next (raise (isInit i) c u) := by
  rw [runAll_cons]
  cases op.run s <;> rfl

/-- A last operation, before an answer that decodes nothing. -/
theorem conclude_last (i : Instr) (op : Op) (plain : ∀ m, answer i m = some 0) :
    conclude i (runAll [op] s) = .next ((op.run s).orRaise (isInit i) (finish i 0)) := by
  rw [conclude_cons]
  cases op.run s with
  | done bytes u =>
    change conclude i (.done [] u) = _
    rw [conclude, plain]
    rfl
  | failed c u => rfl

/-- A push, before a last operation. -/
theorem conclude_push (i : Instr) (a : Nat) (payload : List Byte) (op : Op) (plain : ∀ m, answer i m = some 0) :
    conclude i (runAll [.push a payload, op] s) = .next ((busWrite a payload s).orRaise (isInit i) fun u =>
      (op.run u).orRaise (isInit i) (finish i 0)) := by
  rw [conclude_cons, Op.run]
  cases busWrite a payload s with
  | done bytes u => exact conclude_last i op plain
  | failed c u => rfl

/-- The decode that `TEMP`, `CJT` and `FLT` share. -/
theorem conclude_refreshOps (i : Instr) {r : Bool} (notInit : isInit i = false) (ends : finish i = respond)
    (ready : s.life = .ready) : conclude i (runAll (refreshOps r) (accept s)) = decodeWith (answer i) r s := by
  cases r with
  | false =>
    rw [Decoders.decodeWith_false_of_ready _ ready, refreshOps, if_neg Bool.false_ne_true, runAll_nil, conclude, ends]
    rfl
  | true =>
    rw [Decoders.decodeWith_true_of_ready _ ready, refreshOps, if_pos rfl, conclude_cons, Op.run]
    change _ = Tx.orRaiseThen (Machine.pull 0x0A 6 (accept s)) _
    cases Machine.pull 0x0A 6 (accept s) with
    | done bytes u =>
      change conclude i (.done [] u) = _
      rw [orRaiseThen_done, conclude, ends]
    | failed c u => rw [orRaiseThen_failed, notInit]

theorem conclude_typeOps (tsel : BitVec 4) (cr0v cr1v : Bool) (cr0 cr1 avg c0 : Byte) (s : State) :
    conclude (.init tsel cr0v cr1v cr0 cr1) (runAll (typeOps tsel avg c0) s) = .next (initType tsel avg c0 s) := by
  rw [initType, typeOps]
  cases Thermocouple.ofSelector tsel with
  | none => rfl
  | some ty => exact conclude_push _ 0 [c0, mergeCr1 avg ty.code, 0x00#8] (.pull 0 3) fun _ => rfl

end

theorem runPlan_init (tsel : BitVec 4) (cr0v cr1v : Bool) (cr0 cr1 : Byte) (s : State) :
    runPlan (.init tsel cr0v cr1v cr0 cr1) s = execInit tsel cr0v cr1v cr0 cr1 s := by
  change conclude _ (runAll (.pull 0 16 :: _) (initConfigure (initRelease (accept s)))) = _
  rw [conclude_cons, Op.run, execInit, Params.nreg]
  cases Machine.pull 0 16 (initConfigure (initRelease (accept s))) with
  | done bytes u => exact conclude_typeOps ..
  | failed c u => rfl

/-- An instruction that is not turned away runs its plan. -/
theorem exec_of_not_refused {i : Instr} {s : State} (notRefused : refusal i s.life = none) :
    exec i s = runPlan i s := by
  obtain ⟨ready, inRange⟩ : (needsReady i = true → s.life = .ready) ∧ overrun i = none := by
    rw [refusal] at notRefused
    split at notRefused
    · cases notRefused
    next h => exact ⟨fun guarded => of_not_not fun not => h ⟨guarded, not⟩, notRefused⟩
  cases i with
  | init => exact (runPlan_init ..).symm
  | rdr start count =>
    have fits : start.toNat + count.toNat ≤ 16 := by simpa [overrun] using inRange
    rw [Transfers.exec_rdr_of_ready (ready rfl) fits]
    exact (conclude_last (.rdr start count) (.pull start.toNat count.toNat) fun _ => rfl).symm
  | wrr start count =>
    have fits : start.toNat + count.toNat ≤ 16 := by simpa [overrun] using inRange
    rw [exec, execWrr, whenReady_ready (s := accept s) _ (ready rfl), whenInRange_in _ _ fits, runPlan, plan,
      accept_mirror]
    cases s.mirror.readRange start.toNat count.toNat with
    | none => rfl
    | some payload => exact (conclude_last (.wrr start count) (.push start.toNat payload) fun _ => rfl).symm
  | rdd =>
    rw [exec, execRdd, whenReady_ready (s := accept s) _ (ready rfl)]
    exact (conclude_last .rdd (.pull 0x0A 6) fun _ => rfl).symm
  | oneshot =>
    rw [exec, execOneshot, whenReady_ready (s := accept s) _ (ready rfl), runPlan, plan, accept_mirror, Params.addrCr0]
    cases s.mirror.read 0 with
    | none => rfl
    | some old =>
      change _ = conclude _ (runAll (.push 0 [oneShotCr0 old] :: _) (stage 0 (oneShotCr0 old) (accept s)))
      rw [withValue_some, conclude_cons, Op.run]
      cases busWrite 0 [oneShotCr0 old] (stage 0 (oneShotCr0 old) (accept s)) with
      | done bytes u => exact (conclude_last .oneshot (.pull 0x0A 6) fun _ => rfl).symm
      | failed c u => rfl
  | temp r => exact (conclude_refreshOps (.temp r) rfl rfl (ready rfl)).symm
  | cjt r => exact (conclude_refreshOps (.cjt r) rfl rfl (ready rfl)).symm
  | flt r => exact (conclude_refreshOps (.flt r) rfl rfl (ready rfl)).symm
  | mld addr =>
    rw [exec, execMld, whenReady_ready (s := accept s) _ (ready rfl)]
    change _ = withValue (((accept s).mirror.read addr.toNat).map zextByte) _
    cases (accept s).mirror.read addr.toNat <;> rfl
  | mst addr data =>
    rw [exec, execMst, whenReady_ready (s := accept s) _ (ready rfl)]
    rfl
  | busRead a n =>
    have fits : burstFits a.toNat n.toNat = true := by simpa [overrun] using inRange
    rw [exec, execBusRead, if_pos fits]
    exact (conclude_last (.busRead a n) (.read a.toNat n.toNat) fun _ => rfl).symm
  | busWrite a payload =>
    have fits : burstFits a.toNat payload.length = true := by simpa [overrun] using inRange
    rw [exec, execBusWrite, if_pos fits]
    exact (conclude_last (.busWrite a payload) (.push a.toNat payload) fun _ => rfl).symm

/-- An instruction that is turned away does nothing but raise (R203, R205). -/
theorem exec_of_refused {i : Instr} {s : State} {c : Cause} (refused : refusal i s.life = some c) :
    exec i s = .next (raise false c (accept s)) := by
  rw [refusal] at refused
  split at refused
  next guarded =>
    obtain ⟨needs, notReady⟩ := guarded
    rw [Exceptions.exec_of_not_ready needs notReady, ← Option.some.inj refused]
  next passed =>
    have ready (needs : needsReady i = true) : (accept s).life = .ready := of_not_not fun not => passed ⟨needs, not⟩
    cases i with
    | rdr start count =>
      obtain ⟨past, rfl⟩ : ¬start.toNat + count.toNat ≤ 16 ∧ .rangeError (start.setWidth 7) count = c := by
        simpa [overrun] using refused
      rw [exec, execRdr, whenReady_ready _ (ready rfl), whenInRange_out _ _ (Nat.lt_of_not_le past)]
    | wrr start count =>
      obtain ⟨past, rfl⟩ : ¬start.toNat + count.toNat ≤ 16 ∧ .rangeError (start.setWidth 7) count = c := by
        simpa [overrun] using refused
      rw [exec, execWrr, whenReady_ready _ (ready rfl), whenInRange_out _ _ (Nat.lt_of_not_le past)]
    | busRead a n =>
      obtain ⟨past, rfl⟩ : ¬burstFits a.toNat n.toNat = true ∧ .rangeError a n = c := by
        simpa [overrun] using refused
      rw [exec, execBusRead, if_neg past]
    | busWrite a payload =>
      obtain ⟨past, rfl⟩ : ¬burstFits a.toNat payload.length = true ∧
          .rangeError a (BitVec.ofNat 5 payload.length) = c := by
        simpa [overrun] using refused
      rw [exec, execBusWrite, if_neg past]
    | _ => cases refused

/-! ### How an instruction ends -/

/-- The three ways in which an instruction that does not stop can end. -/
inductive Ended (i : Instr) (s : State) : State → Prop where
  | refused {c : Cause} (refused : refusal i s.life = some c) : Ended i s (raise false c (accept s))
  | completed {ops : List Op} {bytes : List Byte} {u : State} {rsp : Word} (passed : refusal i s.life = none)
      (planned : plan i s.mirror = some ops) (ran : runAll ops (accept s) = .done bytes u)
      (answered : answer i u.mirror = some rsp) : Ended i s (finish i rsp u)
  | failed {ops : List Op} {c : Cause} {u : State} (passed : refusal i s.life = none)
      (planned : plan i s.mirror = some ops) (ran : runAll ops (accept s) = .failed c u) :
      Ended i s (raise (isInit i) c u)

theorem ended_of_exec {i : Instr} {s t : State} (h : exec i s = .next t) : Ended i s t := by
  cases passed : refusal i s.life with
  | some c =>
    rw [exec_of_refused passed] at h
    exact Host.Outcome.next.inj h ▸ .refused passed
  | none =>
    rw [exec_of_not_refused passed] at h
    obtain ⟨ops, planned, h⟩ := Transfers.withValue_cases h
    cases ran : runAll ops (accept s) with
    | done bytes u =>
      rw [ran] at h
      obtain ⟨rsp, answered, h⟩ := Transfers.withValue_cases h
      exact Host.Outcome.next.inj h ▸ .completed passed planned ran answered
    | failed c u =>
      rw [ran] at h
      exact Host.Outcome.next.inj h ▸ .failed passed planned ran

/-! ### One induction over the operations -/

/-- What holds at the start, and after each operation that completes, holds at the end; what each failing operation
leaves is what the run leaves. -/
theorem runAll_induct {P : State → Prop} {Q : Cause → State → Prop} {ops : List Op} {s : State} (start : P s)
    (done : ∀ op ∈ ops, ∀ v bytes u, P v → op.run v = .done bytes u → P u)
    (failed : ∀ op ∈ ops, ∀ v c u, P v → op.run v = .failed c u → Q c u) :
    (∀ bytes u, runAll ops s = .done bytes u → P u) ∧ ∀ c u, runAll ops s = .failed c u → Q c u := by
  induction ops generalizing s with
  | nil =>
    refine ⟨fun bytes u h => ?_, fun c u h => ?_⟩ <;> cases h
    exact start
  | cons op ops ih =>
    rw [runAll_cons]
    cases ran : op.run s with
    | done bytes u =>
      exact ih (done op List.mem_cons_self s bytes u start ran) (fun op' h => done op' (List.mem_cons_of_mem _ h))
        fun op' h => failed op' (List.mem_cons_of_mem _ h)
    | failed c u =>
      refine ⟨fun bytes v h => ?_, fun c' v h => ?_⟩ <;> cases h
      exact failed op List.mem_cons_self s c u start ran

/-! ### What a plan holds -/

/-- An operation respects the bounds of the register file (R20, R121, R125). -/
def Op.fits : Op → Bool
  | .stage a _ => decide (a < Params.nreg)
  | .push a payload => burstFits a payload.length
  | .read a n => burstFits a n
  | .pull a n => burstFits a n
  | _ => true

/-- The mirror bytes an operation writes. -/
def Op.writes : Op → Nat → Bool
  | .stage a _, x => decide (x = a)
  | .pull a n, x => decide (a ≤ x) && decide (x < a + n)
  | _, _ => false

/-- How many events an operation appends when it completes (R137). -/
def Op.events : Op → Nat
  | .push _ _ => 1
  | .read _ _ => 1
  | .pull _ _ => 1
  | _ => 0

/-- What the operations of an instruction's plan have in common. -/
structure Op.Belongs (op : Op) (i : Instr) : Prop where
  fits : op.fits = true
  writes : ∀ a, op.writes a = true → mayWrite i a = true
  configure : op = .configure → isInit i = true
  wait : op = .wait → i = .oneshot
  reject : ∀ tsel, op = .reject tsel → isInit i = true
  events : op.events ≠ 0 → transactions i ≠ 0
  mirror : isCommand i = false → ∀ a, op.writes a = false

theorem inRange_of_passed {i : Instr} {life : Life} (passed : refusal i life = none) : overrun i = none := by
  rw [refusal] at passed
  split at passed
  · cases passed
  · exact passed

section Belongs

variable {i : Instr}

theorem belongs_pull {a n : Nat} (fits : burstFits a n = true) (writes : ∀ x, a ≤ x → x < a + n → mayWrite i x = true)
    (transfers : transactions i ≠ 0) (command : isCommand i = true) : (Op.pull a n).Belongs i where
  fits := fits
  writes x h := by
    obtain ⟨above, below⟩ : a ≤ x ∧ x < a + n := by simpa [Op.writes] using h
    exact writes x above below
  configure h := by cases h
  wait h := by cases h
  reject _ h := by cases h
  events _ := transfers
  mirror frame := by simp [command] at frame

theorem belongs_stage {a : Nat} {b : Byte} (inside : a < 16) (writes : mayWrite i a = true)
    (command : isCommand i = true) : (Op.stage a b).Belongs i where
  fits := decide_eq_true inside
  writes x h := by
    obtain rfl : x = a := of_decide_eq_true h
    exact writes
  configure h := by cases h
  wait h := by cases h
  reject _ h := by cases h
  events h := absurd rfl h
  mirror frame := by simp [command] at frame

theorem belongs_of_not_writes {op : Op} (fits : op.fits = true) (writes : ∀ a, op.writes a = false)
    (events : op.events ≠ 0 → transactions i ≠ 0) (configure : op = .configure → isInit i = true)
    (wait : op = .wait → i = .oneshot) (reject : ∀ tsel, op = .reject tsel → isInit i = true) : op.Belongs i where
  fits := fits
  writes x h := by simp [writes] at h
  configure := configure
  wait := wait
  reject := reject
  events := events
  mirror _ := writes

theorem belongs_push {a : Nat} {payload : List Byte} (fits : burstFits a payload.length = true)
    (transfers : transactions i ≠ 0) : (Op.push a payload).Belongs i :=
  belongs_of_not_writes fits (fun _ => rfl) (fun _ => transfers) nofun nofun nofun

/-- The read of the six data registers, in the commands that store them. -/
theorem belongs_data (writes : ∀ x, 0x0A ≤ x → x < 0x10 → mayWrite i x = true) (transfers : transactions i ≠ 0)
    (command : isCommand i = true) : (Op.pull 0x0A 6).Belongs i :=
  belongs_pull burstFits_data writes transfers command

theorem belongs_refresh (r : Bool) (writes : r = true → ∀ x, 0x0A ≤ x → x < 0x10 → mayWrite i x = true)
    (transfers : r = true → transactions i ≠ 0) (command : isCommand i = true) :
    ∀ op ∈ refreshOps r, op.Belongs i := by
  cases r with
  | false => simp [refreshOps]
  | true =>
    intro op h
    obtain rfl := List.mem_singleton.mp h
    exact belongs_data (writes rfl) (transfers rfl) command

theorem belongs_typeOps (tsel : BitVec 4) (avg c0 : Byte) (init : isInit i = true) :
    ∀ op ∈ typeOps tsel avg c0, op.Belongs i := by
  cases i with
  | init =>
    rw [typeOps]
    split
    · simp only [List.forall_mem_cons, List.not_mem_nil, false_imp_iff, implies_true, and_true]
      exact belongs_of_not_writes rfl (fun _ => rfl) (absurd rfl) nofun nofun fun _ _ => rfl
    · simp only [List.forall_mem_cons, List.not_mem_nil, false_imp_iff, implies_true, and_true]
      exact ⟨belongs_stage (by decide) rfl rfl, belongs_stage (by decide) rfl rfl,
        belongs_push rfl (Nat.succ_ne_zero _),
        belongs_pull rfl (fun x _ below => decide_eq_true (by simp only [Params.nreg]; omega)) (Nat.succ_ne_zero _) rfl⟩
  | _ => cases init

end Belongs

theorem belongs_of_mem_plan {i : Instr} {life : Life} {m : Memory} {ops : List Op} (passed : refusal i life = none)
    (planned : plan i m = some ops) : ∀ op ∈ ops, op.Belongs i := by
  have inRange := inRange_of_passed passed
  have data (x : Nat) (above : 0x0A ≤ x) (below : x < 0x10) :
      (decide (Params.dataStart ≤ x) && decide (x < Params.nreg)) = true := by
    simp [Params.dataStart, Params.nreg, above, below]
  cases i with
  | init =>
    cases planned
    simp only [List.forall_mem_cons]
    exact ⟨belongs_of_not_writes rfl (fun _ => rfl) (absurd rfl) (fun _ => rfl) nofun nofun,
      belongs_pull rfl (fun x _ below => decide_eq_true (by simp only [Params.nreg]; omega)) (Nat.succ_ne_zero _) rfl,
      belongs_stage (by decide) rfl rfl, belongs_typeOps _ _ _ rfl⟩
  | rdr start count =>
    have fits : start.toNat + count.toNat ≤ 16 := by simpa [overrun] using inRange
    cases planned
    exact List.forall_mem_singleton.mpr (belongs_pull (burstFits_of_range fits)
      (fun x above below => by simp [mayWrite, above, below]) (Nat.succ_ne_zero _) rfl)
  | wrr start count =>
    have fits : start.toNat + count.toNat ≤ 16 := by simpa [overrun] using inRange
    obtain ⟨payload, read, rfl⟩ := Option.map_eq_some_iff.mp planned
    have length := Memory.length_of_readRange read
    exact List.forall_mem_singleton.mpr (belongs_push (burstFits_of_range (length ▸ fits)) (Nat.succ_ne_zero _))
  | rdd =>
    cases planned
    exact List.forall_mem_singleton.mpr (belongs_data data (Nat.succ_ne_zero _) rfl)
  | oneshot =>
    obtain ⟨old, read, rfl⟩ := Option.map_eq_some_iff.mp planned
    simp only [List.forall_mem_cons, List.not_mem_nil, false_imp_iff, implies_true, and_true]
    exact ⟨belongs_stage (by decide) rfl rfl, belongs_push rfl (Nat.succ_ne_zero _),
      belongs_of_not_writes rfl (fun _ => rfl) (absurd rfl) nofun (fun _ => rfl) nofun,
      belongs_data (fun x above below => by simp [mayWrite, data x above below]) (Nat.succ_ne_zero _) rfl⟩
  | temp r | cjt r | flt r =>
    cases planned
    refine belongs_refresh r (fun h x above below => ?_) (fun h => ?_) rfl
    · simpa [mayWrite, h] using data x above below
    · simp [transactions, h]
  | mld =>
    cases planned
    simp
  | mst addr data =>
    cases planned
    exact List.forall_mem_singleton.mpr (belongs_stage addr.isLt (decide_eq_true rfl) rfl)
  | busRead a n =>
    have fits : burstFits a.toNat n.toNat = true := by simpa [overrun] using inRange
    cases planned
    exact List.forall_mem_singleton.mpr (belongs_of_not_writes fits (fun _ => rfl) (fun _ => Nat.succ_ne_zero _) nofun
      nofun nofun)
  | busWrite a payload =>
    have fits : burstFits a.toNat payload.length = true := by simpa [overrun] using inRange
    cases planned
    exact List.forall_mem_singleton.mpr (belongs_push fits (Nat.succ_ne_zero _))

end Sys2Proof.Plan

/-! PROOFS. What each operation of a plan does, said once, whether it completes or fails. -/

namespace Sys2Proof.Operations

open Machine Plan

/-! ### The three structures -/

/-- The sequencer's fields lie in the ranges of R25. -/
structure SequencerOk (s : State) : Prop where
  ptr : s.ptr ≤ 16
  left : s.left ≤ 16
  xbuf : s.xbuf.length = 17

theorem SequencerOk.of_inRange {s u : State} (moved : SequencerInRange s u) (ok : SequencerOk s) : SequencerOk u :=
  ⟨moved.ptr, moved.left, moved.xbuf ok.xbuf⟩

/-- What an operation does to the state, in every outcome. -/
structure Effect (op : Op) (s u : State) : Prop where
  port : u.port = s.port
  life : u.life = s.life
  err : u.err = s.err
  resp : u.resp = s.resp
  buscfg : op ≠ .configure → u.buscfg = s.buscfg
  configured : s.buscfg.configured = true → u.buscfg.configured = true
  delay : op ≠ .wait → u.delay = s.delay
  expired : s.delay = 0 → u.delay = 0
  untouched : (∀ a, op.writes a = false) → u.mirror = s.mirror
  outside : ∀ a, op.writes a = false → u.mirror.read a = s.mirror.read a
  written : ∀ a, op.writes a = true ∨ (s.mirror.read a).isSome = true → (u.mirror.read a).isSome = true
  wf : s.mirror.wf → u.mirror.wf
  sequencer : SequencerOk s → SequencerOk u

/-- What holds besides when an operation completes. -/
structure Completion (op : Op) (s u : State) : Prop where
  cs : s.cs = .inactive → u.cs = .inactive
  phase : s.phase = .idle → u.phase = .idle
  configured : op = .configure → u.buscfg.configured = true
  events : u.hist.length = s.hist.length + op.events
  agrees : Agrees s.hist s.wire → Agrees u.hist u.wire

/-- What holds besides when an operation fails with the exception `c`. -/
structure Failure (op : Op) (s : State) (c : Cause) (u : State) : Prop where
  code : c.code = 2 ∧ op.events ≠ 0 ∨ c.code = 1 ∧ ∃ tsel, op = .reject tsel
  endsConstruction : c.endsConstruction = true
  agrees : s.cs = .inactive → Agrees s.hist s.wire →
    ∀ constructing, Agrees (raise constructing c u).hist (raise constructing c u).wire

/-- What an operation does, whether it completes or fails. -/
def Outcome (op : Op) (s : State) : Tx → Prop
  | .done _ u => Effect op s u ∧ Completion op s u
  | .failed c u => Effect op s u ∧ Failure op s c u

/-! ### The mirror -/

/-- An operation that stores bytes in the range it is said to write. -/
theorem writeRange_effect {m m' : Memory} {a n : Nat} {bytes : List Byte} (length : bytes.length = n)
    (stored : m' = m.writeRange a bytes) :
    ((∀ x, (Op.pull a n).writes x = false) → m' = m) ∧
      (∀ x, (Op.pull a n).writes x = false → m'.read x = m.read x) ∧
      (∀ x, (Op.pull a n).writes x = true ∨ (m.read x).isSome = true → (m'.read x).isSome = true) ∧
      (burstFits a n = true → m.wf → m'.wf) := by
  have writes (x : Nat) : (Op.pull a n).writes x = true ↔ a ≤ x ∧ x < a + n := by simp [Op.writes]
  have spares (x : Nat) : (Op.pull a n).writes x = false ↔ x < a ∨ a + n ≤ x := by
    rw [← Bool.not_eq_true, writes]
    omega
  subst length stored
  refine ⟨fun nothing => ?_, fun x spared => ?_, fun x h => ?_, fun fits wf => ?_⟩
  · have empty : bytes = [] := by
      have := (spares a).mp (nothing a)
      exact List.length_eq_zero_iff.mp (by omega)
    rw [empty]
    rfl
  · exact Memory.read_writeRange_outside m bytes ((spares x).mp spared)
  · exact Memory.isSome_read_writeRange (h.imp_left (writes x).mp)
  · exact Memory.wf_writeRange ((burstFits_iff _ _).mp fits).2 wf

/-- An operation that leaves the mirror alone. -/
theorem Effect.of_untouched {op : Op} {s u : State} (frame : Untouched s u) (sequencer : SequencerInRange s u)
    (writes : ∀ a, op.writes a = false) : Effect op s u where
  port := frame.port
  life := frame.life
  err := frame.err
  resp := frame.resp
  buscfg _ := frame.buscfg
  configured h := frame.buscfg ▸ h
  delay _ := frame.delay
  expired h := frame.delay.trans h
  untouched _ := frame.mirror
  outside _ _ := by rw [frame.mirror]
  written a h := by
    rw [writes] at h
    simpa [frame.mirror] using h
  wf h := frame.mirror ▸ h
  sequencer := .of_inRange sequencer

/-- An operation that stores bytes in a range. -/
theorem Effect.of_stored {a n : Nat} {bytes : List Byte} {s u : State} (fits : burstFits a n = true)
    (length : bytes.length = n) (stored : u.mirror = s.mirror.writeRange a bytes)
    (frame : Untouched s { u with mirror := s.mirror }) (sequencer : SequencerInRange s u) :
    Effect (.pull a n) s u := by
  obtain ⟨untouched, outside, written, wf⟩ := writeRange_effect length stored
  exact ⟨frame.port, frame.life, frame.err, frame.resp, fun _ => frame.buscfg, fun h => frame.buscfg ▸ h,
    fun _ => frame.delay, fun h => frame.delay.trans h, untouched, outside, written, wf fits, .of_inRange sequencer⟩

/-! ### The wire -/

/-- A transaction that completes is shown whole (R120, R121, R125). -/
theorem agrees_of_shown {s u : State} {e : BusEvent} {shown : List WireEvent} (renders : Renders e shown)
    (hist : u.hist = s.hist ++ [e]) (wire : u.wire = s.wire ++ shown) (agrees : Agrees s.hist s.wire) :
    Agrees u.hist u.wire := by
  rw [hist, wire]
  exact .event _ _ _ _ agrees renders

/-- A transaction that fails is shown whole once the exception entry has released chip-select (R210). -/
theorem agrees_raise {s u : State} {d : Dir} {a k : Nat} {shown : List WireEvent}
    (renders : Renders (.f d a k) (shown ++ [.broken, .deselect])) (active : u.cs = .active) (hist : u.hist = s.hist)
    (wire : u.wire = s.wire ++ (shown ++ [.broken])) (agrees : Agrees s.hist s.wire) (constructing : Bool) :
    Agrees (raise constructing (.busTransportFailure d a k) u).hist
      (raise constructing (.busTransportFailure d a k) u).wire := by
  refine agrees_of_shown renders ?_ ?_ agrees
  · rw [raise_hist, hist]
    rfl
  · rw [raise_wire, active, if_pos rfl, wire]
    simp

/-! ### Every operation -/

theorem outcome_push {a : Nat} {payload : List Byte} (s : State) (fits : burstFits a payload.length = true) :
    Outcome (.push a payload) s (busWrite a payload s) := by
  have outcome := busWrite_spec s fits
  cases ran : busWrite a payload s with
  | done bytes u =>
    rw [ran] at outcome
    obtain ⟨-, frame, sequencer, cs, phase, hist, wire⟩ := outcome
    exact ⟨.of_untouched frame sequencer fun _ => rfl, fun _ => cs, fun _ => phase, nofun, by simp [hist, Op.events],
      agrees_of_shown (.w a payload fits) hist wire⟩
  | failed c u =>
    rw [ran] at outcome
    obtain ⟨k, k_le, rfl, frame, sequencer, active, hist, wire⟩ := outcome
    exact ⟨.of_untouched frame sequencer fun _ => rfl, .inl ⟨rfl, Nat.one_ne_zero⟩, rfl, fun _ =>
      agrees_raise (.fw a k payload fits k_le) active hist wire⟩

theorem outcome_read {a n : Nat} (s : State) (fits : burstFits a n = true) :
    Outcome (.read a n) s (busRead a n s) := by
  have outcome := busRead_spec s fits
  cases ran : busRead a n s with
  | done bytes u =>
    rw [ran] at outcome
    obtain ⟨length, frame, sequencer, cs, phase, hist, x, wire⟩ := outcome
    exact ⟨.of_untouched frame sequencer fun _ => rfl, fun _ => cs, fun _ => phase, nofun, by simp [hist, Op.events],
      agrees_of_shown (.r a n x bytes fits length) hist wire⟩
  | failed c u =>
    rw [ran] at outcome
    obtain ⟨k, k_le, rfl, frame, sequencer, active, hist, rs, length, wire⟩ := outcome
    exact ⟨.of_untouched frame sequencer fun _ => rfl, .inl ⟨rfl, Nat.one_ne_zero⟩, rfl, fun _ =>
      agrees_raise (.fr a n k rs fits k_le length) active hist wire⟩

theorem outcome_pull {a n : Nat} (s : State) (fits : burstFits a n = true) :
    Outcome (.pull a n) s (Machine.pull a n s) := by
  have outcome := pull_spec s fits
  cases ran : Machine.pull a n s with
  | done bytes u =>
    rw [ran] at outcome
    obtain ⟨length, stored, frame, sequencer, cs, phase, hist, x, wire⟩ := outcome
    exact ⟨.of_stored fits length stored frame sequencer, fun _ => cs, fun _ => phase, nofun, by simp [hist, Op.events],
      agrees_of_shown (.r a n x bytes fits length) hist wire⟩
  | failed c u =>
    rw [ran] at outcome
    obtain ⟨k, bytes, k_le, rfl, length, stored, frame, sequencer, active, hist, rs, rs_length, wire⟩ := outcome
    exact ⟨.of_stored fits length stored frame sequencer, .inl ⟨rfl, Nat.one_ne_zero⟩, rfl, fun _ =>
      agrees_raise (.fr a n k rs fits k_le rs_length) active hist wire⟩

theorem outcome_stage {a : Nat} (b : Byte) (s : State) (inside : a < Params.nreg) :
    Outcome (.stage a b) s (.done [] (Machine.stage a b s)) := by
  refine ⟨⟨rfl, rfl, rfl, rfl, fun _ => rfl, id, fun _ => rfl, id, fun nothing => ?_, fun x spared => ?_, fun x h => ?_,
    Memory.wf_write b inside, fun ok => ⟨ok.ptr, ok.left, ok.xbuf⟩⟩, id, id, nofun, rfl, id⟩
  · exact absurd (nothing a) (by simp [Op.writes])
  · exact Memory.read_write_other _ b (of_decide_eq_false spared)
  · exact Memory.isSome_read_write (h.imp_left of_decide_eq_true)

/-- Every operation, whatever the environment answers. -/
theorem outcome_run {op : Op} (s : State) (fits : op.fits = true) : Outcome op s (op.run s) := by
  cases op with
  | configure =>
    exact ⟨⟨rfl, rfl, rfl, rfl, fun h => absurd rfl h, fun _ => rfl, fun _ => rfl, id, fun _ => rfl, fun _ _ => rfl,
      fun _ h => h.resolve_left nofun, id, fun ok => ⟨ok.ptr, ok.left, ok.xbuf⟩⟩,
      fun _ => rfl, id, fun _ => rfl, rfl, id⟩
  | stage a b => exact outcome_stage b s (of_decide_eq_true fits)
  | push a payload => exact outcome_push s fits
  | read a n => exact outcome_read s fits
  | pull a n => exact outcome_pull s fits
  | wait =>
    exact ⟨⟨rfl, rfl, rfl, rfl, fun _ => rfl, id, fun h => absurd rfl h, fun _ => rfl, fun _ => rfl, fun _ _ => rfl,
      fun _ h => h.resolve_left nofun, id, fun ok => ⟨ok.ptr, ok.left, ok.xbuf⟩⟩,
      id, id, nofun, rfl, fun h => .wait _ _ _ h⟩
  | reject tsel =>
    refine ⟨⟨rfl, rfl, rfl, rfl, fun _ => rfl, id, fun _ => rfl, id, fun _ => rfl, fun _ _ => rfl,
      fun _ h => h.resolve_left nofun, id, id⟩, .inr ⟨rfl, tsel, rfl⟩, rfl, fun inactive agrees _ => ?_⟩
    simpa [inactive, Cause.failureEvents] using agrees

theorem effect_of_done {op : Op} {s u : State} {bytes : List Byte} (fits : op.fits = true)
    (ran : op.run s = .done bytes u) : Effect op s u ∧ Completion op s u := by
  have outcome := outcome_run s fits
  rwa [ran] at outcome

theorem effect_of_failed {op : Op} {s u : State} {c : Cause} (fits : op.fits = true)
    (ran : op.run s = .failed c u) : Effect op s u ∧ Failure op s c u := by
  have outcome := outcome_run s fits
  rwa [ran] at outcome

/-! ### A whole plan -/

section

variable {ops : List Op} {s : State}

/-- A property that the effects of the operations keep holds at the end of the run. -/
theorem runAll_keeps {P : State → Prop} (fits : ∀ op ∈ ops, op.fits = true)
    (keeps : ∀ op ∈ ops, ∀ v u, Effect op v u → P v → P u) (start : P s) :
    (∀ bytes u, runAll ops s = .done bytes u → P u) ∧ ∀ c u, runAll ops s = .failed c u → P u :=
  runAll_induct (Q := fun _ => P) start
    (fun op h v _ u held ran => keeps op h v u (effect_of_done (fits op h) ran).1 held)
    fun op h v _ u held ran => keeps op h v u (effect_of_failed (fits op h) ran).1 held

end

end Sys2Proof.Operations

/-! PROOFS. What an instruction can change and how it can end, in every outcome: each follows from what its operations
do and from the three ways to end (spec/10_state.md R23, R27, R29; spec/40_bus_transactions.md R137;
spec/60_exceptions.md R200 to R205). -/

namespace Sys2Proof.Frames

open Machine Plan Operations

variable {i : Instr} {s t : State}

/-! ### The ends -/

section Finish

variable (i : Instr) (rsp : Word) (u : State)

@[simp] theorem finish_mirror : (finish i rsp u).mirror = u.mirror := by cases i <;> rfl

@[simp] theorem finish_port : (finish i rsp u).port = u.port := by cases i <;> rfl

@[simp] theorem finish_delay : (finish i rsp u).delay = u.delay := by cases i <;> rfl

@[simp] theorem finish_buscfg : (finish i rsp u).buscfg = u.buscfg := by cases i <;> rfl

@[simp] theorem finish_hist : (finish i rsp u).hist = u.hist := by cases i <;> rfl

@[simp] theorem finish_wire : (finish i rsp u).wire = u.wire := by cases i <;> rfl

@[simp] theorem finish_cs : (finish i rsp u).cs = u.cs := by cases i <;> rfl

@[simp] theorem finish_phase : (finish i rsp u).phase = u.phase := by cases i <;> rfl

@[simp] theorem finish_busy : (finish i rsp u).busy = false := by cases i <;> rfl

@[simp] theorem finish_ptr : (finish i rsp u).ptr = u.ptr := by cases i <;> rfl

@[simp] theorem finish_left : (finish i rsp u).left = u.left := by cases i <;> rfl

@[simp] theorem finish_dir : (finish i rsp u).dir = u.dir := by cases i <;> rfl

@[simp] theorem finish_xbuf : (finish i rsp u).xbuf = u.xbuf := by cases i <;> rfl

@[simp] theorem finish_answers : (finish i rsp u).answers = u.answers := by cases i <;> rfl

@[simp] theorem finish_draws : (finish i rsp u).draws = u.draws := by cases i <;> rfl

variable {i}

theorem finish_life_of_isInit (init : isInit i = true) : (finish i rsp u).life = .ready := by
  cases i with
  | init => rfl
  | _ => cases init

theorem finish_life_of_not_isInit (notInit : isInit i = false) : (finish i rsp u).life = u.life := by
  cases i with
  | init => cases notInit
  | _ => rfl

/-- A command that completes answers with status 0 (R200). -/
theorem finish_err (command : isCommand i = true) : (finish i rsp u).err = 0 := by
  cases i with
  | busRead | busWrite => cases command
  | _ => rfl

theorem finish_resp (command : isCommand i = true) :
    ∃ w, (finish i rsp u).resp = some { status := (finish i rsp u).err, rsp := w } := by
  cases i with
  | busRead | busWrite => cases command
  | _ => exact ⟨_, rfl⟩

end Finish

/-- Why an instruction is turned away: it needs `life = READY`, or its range overruns (R203, R205). -/
theorem refusal_cases {life : Life} {c : Cause} (refused : refusal i life = some c) :
    c = .notConstructed ∧ needsReady i = true ∧ life ≠ .ready ∨ overrun i = some c := by
  rw [refusal] at refused
  split at refused
  next guarded => exact .inl ⟨(Option.some.inj refused).symm, guarded⟩
  next => exact .inr refused

/-- The range check answers with code 3 (R203). -/
theorem exists_rangeError_of_overrun {c : Cause} (overran : overrun i = some c) :
    ∃ start count, c = .rangeError start count := by
  unfold overrun at overran
  split at overran
  case h_5 => cases overran
  all_goals
    obtain ⟨-, cause⟩ := Option.ite_none_left_eq_some.mp overran
    exact ⟨_, _, (Option.some.inj cause).symm⟩

theorem range_of_overrun {c : Cause} (overran : overrun i = some c) (command : isCommand i = true) :
    ∃ start count, (i = .rdr start count ∨ i = .wrr start count) ∧ 16 < start.toNat + count.toNat := by
  cases i with
  | rdr start count =>
    obtain ⟨past, -⟩ := Option.ite_none_left_eq_some.mp overran
    exact ⟨start, count, .inl rfl, Nat.lt_of_not_le past⟩
  | wrr start count =>
    obtain ⟨past, -⟩ := Option.ite_none_left_eq_some.mp overran
    exact ⟨start, count, .inr rfl, Nat.lt_of_not_le past⟩
  | busRead | busWrite => cases command
  | _ => cases overran

/-- A refusal leaves no event and ends no construction. -/
theorem refusal_frame {life : Life} {c : Cause} (refused : refusal i life = some c) :
    c.failureEvents = [] ∧ c.endsConstruction = false ∧ isInit i = false := by
  obtain ⟨rfl, needs, -⟩ | overran := refusal_cases refused
  · refine ⟨rfl, rfl, ?_⟩
    rw [needsReady, Bool.and_eq_true, Bool.not_eq_true'] at needs
    exact needs.2
  · obtain ⟨start, count, rfl⟩ := exists_rangeError_of_overrun overran
    refine ⟨rfl, rfl, ?_⟩
    cases i with
    | init => cases overran
    | _ => rfl

/-- A run fails in one of its operations. -/
theorem failure_of_runAll {ops : List Op} {c : Cause} {u : State} (fits : ∀ op ∈ ops, op.fits = true)
    (ran : runAll ops s = .failed c u) : ∃ op ∈ ops, ∃ v, Effect op v u ∧ Failure op v c u :=
  (runAll_induct (P := fun _ => True) (Q := fun c u => ∃ op ∈ ops, ∃ v, Effect op v u ∧ Failure op v c u) trivial
    (fun _ _ _ _ _ _ _ => trivial) fun op h v _ _ _ ran => ⟨op, h, v, effect_of_failed (fits op h) ran⟩).2 c u ran

/-- A property that acceptance, the operations of the instruction and every end keep holds after the instruction. -/
theorem exec_keeps {P : State → Prop} (h : exec i s = .next t) (start : P (accept s))
    (operation : ∀ op, op.Belongs i → ∀ v u, Effect op v u → P v → P u)
    (finished : ∀ rsp u, P u → P (finish i rsp u))
    (raised : ∀ constructing c u, (constructing = true → isInit i = true) → P u → P (raise constructing c u)) :
    P t := by
  have run {ops : List Op} (passed : refusal i s.life = none) (planned : plan i s.mirror = some ops) :=
    have belongs := belongs_of_mem_plan passed planned
    runAll_keeps (P := P) (fun op h => (belongs op h).fits) (fun op h => operation op (belongs op h)) start
  cases ended_of_exec h with
  | refused why => exact raised false _ _ nofun start
  | completed passed planned ran answered => exact finished _ _ ((run passed planned).1 _ _ ran)
  | failed passed planned ran => exact raised _ _ _ id ((run passed planned).2 _ _ ran)

/-! ### The mirror -/

/-- Settles O46: an operation writes no byte its instruction may not write, and no end touches the mirror. -/
theorem mirrorBytesHaveNoOtherWriter : Obligations.MirrorBytesHaveNoOtherWriter := by
  intro i s t a h spared
  refine exec_keeps (P := fun u => u.mirror.read a = s.mirror.read a) h rfl (fun op belongs v u effect kept => ?_)
    (fun _ _ kept => by rwa [finish_mirror]) fun _ _ _ _ kept => kept
  have notWritten : op.writes a = false :=
    Bool.eq_false_iff.mpr fun writes => Bool.eq_false_iff.mp spared (belongs.writes a writes)
  exact (effect.outside a notWritten).trans kept

/-! ### All other state -/

theorem exec_port (h : exec i s = .next t) : t.port = s.port :=
  exec_keeps (P := fun u => u.port = s.port) h rfl (fun _ _ _ _ effect kept => effect.port.trans kept)
    (fun _ _ kept => by rwa [finish_port]) fun _ _ _ _ kept => kept

theorem exec_life (h : exec i s = .next t) (notInit : isInit i = false) : t.life = s.life :=
  exec_keeps (P := fun u => u.life = s.life) h rfl (fun _ _ _ _ effect kept => effect.life.trans kept)
    (fun _ _ kept => by rwa [finish_life_of_not_isInit _ _ notInit]) fun constructing _ _ only kept => by
      cases constructing with
      | false => exact kept
      | true => simp [only rfl] at notInit

theorem exec_buscfg (h : exec i s = .next t) (notInit : isInit i = false) : t.buscfg = s.buscfg :=
  exec_keeps (P := fun u => u.buscfg = s.buscfg) h rfl
    (fun op belongs _ _ effect kept =>
      (effect.buscfg fun configure => by simp [belongs.configure configure] at notInit).trans kept)
    (fun _ _ kept => by rwa [finish_buscfg]) fun _ _ _ _ kept => kept

theorem exec_delay (h : exec i s = .next t) (notOneshot : i ≠ .oneshot) : t.delay = s.delay :=
  exec_keeps (P := fun u => u.delay = s.delay) h rfl
    (fun op belongs _ _ effect kept => (effect.delay fun wait => notOneshot (belongs.wait wait)).trans kept)
    (fun _ _ kept => by rwa [finish_delay]) fun _ _ _ _ kept => kept

theorem exec_frame_mirror (h : exec i s = .next t) (frame : isCommand i = false) : t.mirror = s.mirror :=
  exec_keeps (P := fun u => u.mirror = s.mirror) h rfl
    (fun op belongs _ _ effect kept => (effect.untouched (belongs.mirror frame)).trans kept)
    (fun _ _ kept => by rwa [finish_mirror]) fun _ _ _ _ kept => kept

/-- What only a transaction changes. -/
structure Quiet (s u : State) : Prop where
  hist : u.hist = s.hist
  answers : u.answers = s.answers
  draws : u.draws = s.draws
  ptr : u.ptr = s.ptr
  left : u.left = s.left
  dir : u.dir = s.dir
  xbuf : u.xbuf = s.xbuf

/-- An operation that is no transaction leaves the history, the answers and the sequencer alone. -/
theorem quiet_of_done {op : Op} {v u : State} {bytes : List Byte} (noEvent : op.events = 0)
    (ran : op.run v = .done bytes u) (kept : Quiet s v) : Quiet s u := by
  obtain ⟨hist, answers, draws, ptr, left, dir, xbuf⟩ := kept
  cases op with
  | configure | stage | wait =>
    cases ran
    exact ⟨hist, answers, draws, ptr, left, dir, xbuf⟩
  | push | read | pull => cases noEvent
  | reject => cases ran

/-- An instruction without transactions is turned away, or stages at most and answers (R137). -/
theorem exec_quiet (h : exec i s = .next t) (noTransaction : transactions i = 0) : Quiet s t := by
  have start : Quiet s (accept s) := ⟨rfl, rfl, rfl, rfl, rfl, rfl, rfl⟩
  have noEvent {op : Op} (belongs : op.Belongs i) : op.events = 0 :=
    of_not_not fun events => belongs.events events noTransaction
  cases ended_of_exec h with
  | refused why =>
    obtain ⟨events, -, -⟩ := refusal_frame why
    exact ⟨by rw [raise_hist, events, List.append_nil, accept_hist], rfl, rfl, rfl, rfl, rfl, rfl⟩
  | completed passed planned ran answered =>
    obtain ⟨hist, answers, draws, ptr, left, dir, xbuf⟩ :=
      (runAll_induct (P := Quiet s) (Q := fun _ _ => True) start
        (fun op h _ _ _ kept ran => quiet_of_done (noEvent (belongs_of_mem_plan passed planned op h)) ran kept)
        fun _ _ _ _ _ _ _ => trivial).1 _ _ ran
    exact ⟨by simpa using hist, by simpa using answers, by simpa using draws, by simpa using ptr, by simpa using left,
      by simpa using dir, by simpa using xbuf⟩
  | failed passed planned ran =>
    have belongs := belongs_of_mem_plan passed planned
    obtain ⟨op, mem, v, -, failure⟩ := failure_of_runAll (fun op h => (belongs op h).fits) ran
    obtain ⟨-, events⟩ | ⟨-, tsel, rejects⟩ := failure.code
    · exact absurd (noEvent (belongs op mem)) events
    · have init := (belongs op mem).reject tsel rejects
      cases i with
      | init => cases noTransaction
      | _ => cases init

/-- Settles O47: each clause is a frame of the operations the instruction can plan. -/
theorem otherStateHasNoOtherWriter : Obligations.OtherStateHasNoOtherWriter := by
  refine fun i s t h => ⟨exec_port h, fun notInit => ⟨exec_life h notInit, exec_buscfg h notInit⟩, exec_delay h,
    fun noTransaction => ?_, exec_frame_mirror h⟩
  obtain ⟨hist, answers, draws, ptr, left, dir, xbuf⟩ := exec_quiet h noTransaction
  exact ⟨hist, answers, draws, ptr, left, dir, xbuf⟩

/-! ### Lifecycle, status, response -/

theorem step_of_busy {q : Request} {rest : List PortInput} (presented : s.port = .request q :: rest)
    (busy : s.busy = true) : step s = .next s := by
  simp [step, stepPort, presented, busy]

/-- Settles O2: the two branches of the port that take no input. -/
theorem portWaitsWhenIdleOrBusy : Obligations.PortWaitsWhenIdleOrBusy :=
  ⟨fun s idle => by simp [step, stepPort, idle], fun _ _ _ => step_of_busy⟩

/-- Settles O3: a request taken from the port is run as what it decodes to. -/
theorem stepRunsDecodedInstruction : Obligations.StepRunsDecodedInstruction := by
  intro s q rest i presented notBusy decoded
  rw [Exceptions.step_of_request presented notBusy, runRequest, decoded]

/-- `INIT` ends `READY` or `FAILED`, by its `err` (R27, R159, R210). -/
theorem exec_init_life (h : exec i s = .next t) (init : isInit i = true) :
    (t.err = 0 → t.life = .ready) ∧ (t.err ≠ 0 → t.life = .failed) := by
  have command : isCommand i = true := by
    cases i with
    | init => rfl
    | _ => cases init
  cases ended_of_exec h with
  | refused why =>
    obtain ⟨-, -, notInit⟩ := refusal_frame why
    simp [init] at notInit
  | completed passed planned ran answered =>
    exact ⟨fun _ => finish_life_of_isInit _ _ init, fun raised => absurd (finish_err _ _ command) raised⟩
  | failed passed planned ran =>
    obtain ⟨op, mem, v, -, failure⟩ :=
      failure_of_runAll (fun op h => (belongs_of_mem_plan passed planned op h).fits) ran
    refine ⟨fun completed => absurd completed (Decoders.raise_err_ne_zero _ _ _), fun _ => ?_⟩
    simp [init, failure.endsConstruction]

/-- Every command answers, with its `err` as the status (R99, R200). -/
theorem exec_resp (h : exec i s = .next t) (command : isCommand i = true) :
    t.busy = false ∧ ∃ w, t.resp = some { status := t.err, rsp := w } := by
  cases ended_of_exec h with
  | refused | failed => exact ⟨rfl, _, rfl⟩
  | completed => exact ⟨finish_busy _ _ _, finish_resp _ _ command⟩

/-- Settles O48: `INIT` ends `READY` or `FAILED`, every other command keeps `life`, and every command answers. -/
theorem lifecycleFollowsInit : Obligations.LifecycleFollowsInit := by
  refine ⟨rfl, accept_busy, fun _ _ _ => step_of_busy, fun i s t h command => ?_⟩
  exact ⟨fun init => (exec_init_life h init).1, fun init => (exec_init_life h init).2, exec_life h, exec_resp h command⟩

/-- A command that ends with `err = 0` has completed. -/
theorem completed_of_err_eq_zero (h : exec i s = .next t) (ok : t.err = 0) :
    ∃ ops bytes u rsp, refusal i s.life = none ∧ plan i s.mirror = some ops ∧
      runAll ops (accept s) = .done bytes u ∧ answer i u.mirror = some rsp ∧ t = finish i rsp u := by
  cases ended_of_exec h with
  | refused | failed => exact absurd ok (Decoders.raise_err_ne_zero _ _ _)
  | completed passed planned ran answered => exact ⟨_, _, _, _, passed, planned, ran, answered, rfl⟩

/-- Settles O49: only the decoders and `MLD` answer with a word of their own. -/
theorem commandsWithoutResultAnswerZero : Obligations.CommandsWithoutResultAnswerZero := by
  intro i s t h command ok notTemp notCjt notFlt notMld
  obtain ⟨ops, bytes, u, rsp, -, -, -, answered, rfl⟩ := completed_of_err_eq_zero h ok
  cases i with
  | temp r => exact absurd rfl (notTemp r)
  | cjt r => exact absurd rfl (notCjt r)
  | flt r => exact absurd rfl (notFlt r)
  | mld addr => exact absurd rfl (notMld addr)
  | busRead | busWrite => cases command
  | _ =>
    cases answered
    rfl

/-! ### Events -/

theorem runAll_events {ops : List Op} {bytes : List Byte} {u : State} (fits : ∀ op ∈ ops, op.fits = true)
    (ran : runAll ops s = .done bytes u) : u.hist.length = s.hist.length + (ops.map Op.events).sum := by
  induction ops generalizing s with
  | nil =>
    cases ran
    rfl
  | cons op ops ih =>
    rw [runAll_cons] at ran
    cases first : op.run s with
    | done bytes' v =>
      rw [first] at ran
      obtain ⟨-, completion⟩ := effect_of_done (fits op List.mem_cons_self) first
      rw [ih (fun op' h => fits op' (List.mem_cons_of_mem _ h)) ran, completion.events, List.map_cons, List.sum_cons,
        Nat.add_assoc]
    | failed c v =>
      rw [first] at ran
      cases ran

/-- A run whose lookup fails does not complete. -/
theorem runAll_ne_done_of_reject {ops : List Op} {tsel : BitVec 4} {bytes : List Byte} {u : State}
    (rejects : .reject tsel ∈ ops) : runAll ops s ≠ .done bytes u := by
  induction ops generalizing s with
  | nil => cases rejects
  | cons op ops ih =>
    rw [runAll_cons]
    obtain rfl | later := List.mem_cons.mp rejects
    · exact nofun
    · cases op.run s with
      | done bytes' v => exact ih later
      | failed c v => exact nofun

/-- A plan that completes has as many transactions as R137 says. -/
theorem events_of_plan {m : Memory} {ops : List Op} {bytes : List Byte} {u : State} (planned : plan i m = some ops)
    (ran : runAll ops s = .done bytes u) : (ops.map Op.events).sum = transactions i := by
  cases i with
  | init tsel cr0v cr1v cr0 cr1 =>
    cases planned
    cases named : Thermocouple.ofSelector tsel with
    | none => exact absurd ran (runAll_ne_done_of_reject (tsel := tsel) (by simp [typeOps, named]))
    | some ty => simp [typeOps, named, Op.events, transactions]
  | wrr | oneshot =>
    obtain ⟨_, -, rfl⟩ := Option.map_eq_some_iff.mp planned
    rfl
  | temp r | cjt r | flt r =>
    cases planned
    cases r <;> rfl
  | _ =>
    cases planned
    rfl

/-- Settles O50: a completed run appends one event for each transaction of its plan. -/
theorem eventCountsOfCompletedCommands : Obligations.EventCountsOfCompletedCommands := by
  intro i s t h command ok
  obtain ⟨ops, bytes, u, rsp, passed, planned, ran, -, rfl⟩ := completed_of_err_eq_zero h ok
  rw [finish_hist, runAll_events (fun op h => (belongs_of_mem_plan passed planned op h).fits) ran,
    events_of_plan planned ran, accept_hist]

/-! ### Exceptions -/

/-- The causes of the exceptions an instruction can end with (R200 to R205). -/
theorem raised_of_exec (h : exec i s = .next t) (command : isCommand i = true) (raised : t.err ≠ 0) :
    (t.err = 5 ∧ needsReady i = true ∧ s.life ≠ .ready) ∨ (t.err = 3 ∧ ∃ c, overrun i = some c) ∨
      (t.err = 2 ∧ transactions i ≠ 0) ∨ t.err = 1 := by
  cases ended_of_exec h with
  | refused why =>
    obtain ⟨rfl, needs, notReady⟩ | overran := refusal_cases why
    · exact .inl ⟨rfl, needs, notReady⟩
    · obtain ⟨start, count, rfl⟩ := exists_rangeError_of_overrun overran
      exact .inr (.inl ⟨rfl, _, overran⟩)
  | completed => exact absurd (finish_err _ _ command) raised
  | failed passed planned ran =>
    have belongs := belongs_of_mem_plan passed planned
    obtain ⟨op, mem, v, -, failure⟩ := failure_of_runAll (fun op h => (belongs op h).fits) ran
    obtain ⟨code, events⟩ | ⟨code, -⟩ := failure.code
    · exact .inr (.inr (.inl ⟨code, (belongs op mem).events events⟩))
    · exact .inr (.inr (.inr code))

/-- Settles O24: code 1 is `INIT`'s alone (O23), the others come from the two guards and from the transactions. -/
theorem exceptionsComeOnlyFromTheirCauses : Obligations.ExceptionsComeOnlyFromTheirCauses := by
  intro i s t h command
  have causes := raised_of_exec h command
  refine ⟨Exceptions.init_of_err_eq_one h command, fun code => ?_, fun code => ?_, fun code => ?_, fun code => ?_⟩
  · simpa [code] using causes
  · obtain ⟨c, overran⟩ : ∃ c, overrun i = some c := by simpa [code] using causes
    exact range_of_overrun overran command
  · simp [code] at causes
  · simpa [code] using causes

end Sys2Proof.Frames

/-! PROOFS. The invariant of the machine between commands, and that a step never faults under it (spec/10_state.md R24,
R25, R27; spec/70_reset_and_hazards.md R231, R233). -/

namespace Sys2Proof.Invariance

open Machine Plan Operations Frames

variable {i : Instr} {s t u : State} {ops : List Op}

/-! ### Inside a command -/

/-- What holds inside a command as well, whatever its operations have done. -/
structure Sound (s : State) : Prop where
  delay : s.delay = 0
  sequencer : SequencerOk s
  mirror : s.mirror.wf
  complete : s.life = .ready → MirrorComplete s.mirror
  configured : s.life = .ready → s.buscfg.configured = true
  err : s.err ≤ 5
  answered : s.err = lastStatus s

/-- What holds between two operations of a command. -/
structure Between (s : State) : Prop extends Sound s where
  cs : s.cs = .inactive
  phase : s.phase = .idle

theorem between_accept (inv : Inv s) : Between (accept s) where
  delay := inv.quiescent.delay
  sequencer := ⟨inv.ptr, inv.left, inv.xbuf⟩
  mirror := inv.mirror
  complete := inv.complete
  configured := inv.configured
  err := inv.err
  answered := inv.answered
  cs := inv.quiescent.cs
  phase := inv.quiescent.phase

theorem MirrorComplete.of_effect {op : Op} (effect : Effect op s u) (complete : MirrorComplete s.mirror) :
    MirrorComplete u.mirror :=
  fun a inside => effect.written a (.inr (complete a inside))

theorem Sound.of_effect {op : Op} (effect : Effect op s u) (sound : Sound s) : Sound u where
  delay := effect.expired sound.delay
  sequencer := effect.sequencer sound.sequencer
  mirror := effect.wf sound.mirror
  complete ready := MirrorComplete.of_effect effect (sound.complete (effect.life ▸ ready))
  configured ready := effect.configured (sound.configured (effect.life ▸ ready))
  err := effect.err ▸ sound.err
  answered := by
    rw [effect.err, sound.answered, lastStatus, lastStatus, effect.resp]

/-- The operations of a plan keep what holds between them; a failing one leaves the rest. -/
theorem runAll_between (fits : ∀ op ∈ ops, op.fits = true) (start : Between s) :
    (∀ bytes u, runAll ops s = .done bytes u → Between u) ∧ ∀ c u, runAll ops s = .failed c u → Sound u :=
  runAll_induct start
    (fun op mem _ _ _ between ran =>
      have ⟨effect, completion⟩ := effect_of_done (fits op mem) ran
      ⟨between.toSound.of_effect effect, completion.cs between.cs, completion.phase between.phase⟩)
    fun op mem _ _ _ between ran => between.toSound.of_effect (effect_of_failed (fits op mem) ran).1

/-! ### The ends -/

theorem code_le (c : Cause) : c.code ≤ 5 := by cases c <;> simp [Cause.code]

/-- The exception entry restores the invariant from anywhere inside a command (R210). -/
theorem Sound.inv_raise (sound : Sound u) (constructing : Bool) (c : Cause) : Inv (raise constructing c u) where
  quiescent := ⟨rfl, rfl, rfl, sound.delay⟩
  ptr := sound.sequencer.ptr
  left := sound.sequencer.left
  xbuf := sound.sequencer.xbuf
  mirror := sound.mirror
  complete ready := by
    rw [raise_life] at ready
    split at ready
    · cases ready
    · exact sound.complete ready
  configured ready := by
    rw [raise_life] at ready
    split at ready
    · cases ready
    · exact sound.configured ready
  err := code_le c
  answered := rfl

/-- A completed command ends in the invariant; for `INIT`, once the construction has filled the mirror (R160). -/
theorem Between.inv_finish (between : Between u) (rsp : Word)
    (constructed : isInit i = true → MirrorComplete u.mirror ∧ u.buscfg.configured = true) : Inv (finish i rsp u) := by
  have status : (finish i rsp u).err ≤ 5 ∧ (finish i rsp u).err = lastStatus (finish i rsp u) := by
    cases i with
    | busRead | busWrite => exact ⟨between.err, between.answered⟩
    | _ => exact ⟨(by decide : (0 : BitVec 4) ≤ 5), rfl⟩
  have filled : (finish i rsp u).life = .ready → MirrorComplete u.mirror ∧ u.buscfg.configured = true := by
    intro ready
    cases init : isInit i with
    | true => exact constructed init
    | false =>
      rw [finish_life_of_not_isInit _ _ init] at ready
      exact ⟨between.complete ready, between.configured ready⟩
  exact
    { quiescent := ⟨by simp, by simp [between.cs], by simp [between.phase], by simp [between.delay]⟩
      ptr := by simpa using between.sequencer.ptr
      left := by simpa using between.sequencer.left
      xbuf := by simpa using between.sequencer.xbuf
      mirror := by simpa using between.mirror
      complete := fun ready => by simpa using (filled ready).1
      configured := fun ready => by simpa using (filled ready).2
      err := status.1
      answered := status.2 }

/-! ### What a completed `INIT` has established -/

/-- What one operation of a completed run establishes and the others keep holds at the end. -/
theorem runAll_establishes {P : State → Prop} {op : Op} {bytes : List Byte} (mem : op ∈ ops)
    (fits : ∀ op ∈ ops, op.fits = true) (establishes : ∀ v u, Effect op v u → Completion op v u → P u)
    (keeps : ∀ op ∈ ops, ∀ v u, Effect op v u → P v → P u) (ran : runAll ops s = .done bytes u) : P u := by
  induction ops generalizing s with
  | nil => cases mem
  | cons first ops ih =>
    have fits' : ∀ op ∈ ops, op.fits = true := fun op' h => fits op' (List.mem_cons_of_mem _ h)
    have keeps' : ∀ op ∈ ops, ∀ v u, Effect op v u → P v → P u := fun op' h => keeps op' (List.mem_cons_of_mem _ h)
    rw [runAll_cons] at ran
    cases step : first.run s with
    | failed c v =>
      rw [step] at ran
      cases ran
    | done bytes' v =>
      rw [step] at ran
      obtain rfl | later := List.mem_cons.mp mem
      · obtain ⟨effect, completion⟩ := effect_of_done (fits op List.mem_cons_self) step
        exact (runAll_keeps fits' keeps' (establishes _ _ effect completion)).1 _ _ ran
      · exact ih later fits' keeps' ran

/-- The full read of `INIT` gives every mirror byte a value, and step 2 configures the bus port (R151, R152, R160). -/
theorem constructed_of_init {m : Memory} {bytes : List Byte} (init : isInit i = true) (planned : plan i m = some ops)
    (fits : ∀ op ∈ ops, op.fits = true) (ran : runAll ops s = .done bytes u) :
    MirrorComplete u.mirror ∧ u.buscfg.configured = true := by
  have mem : Op.pull 0 16 ∈ ops ∧ Op.configure ∈ ops := by
    cases i with
    | init =>
      cases planned
      simp
    | _ => cases init
  constructor
  · refine runAll_establishes mem.1 fits (fun v u effect _ a inside => effect.written a (.inl ?_))
      (fun _ _ _ _ effect => MirrorComplete.of_effect effect) ran
    simpa [Op.writes, Params.nreg] using inside
  · exact runAll_establishes (P := fun u => u.buscfg.configured = true) mem.2 fits
      (fun v u _ completion => completion.configured rfl) (fun _ _ _ _ effect => effect.configured) ran

/-! ### Every instruction and every step -/

theorem inv_of_exec (inv : Inv s) (h : exec i s = .next t) : Inv t := by
  have start := between_accept inv
  cases ended_of_exec h with
  | refused => exact start.toSound.inv_raise _ _
  | completed passed planned ran answered =>
    have fits := fun op mem => (belongs_of_mem_plan passed planned op mem).fits
    exact ((runAll_between fits start).1 _ _ ran).inv_finish _ fun init => constructed_of_init init planned fits ran
  | failed passed planned ran =>
    have fits := fun op mem => (belongs_of_mem_plan passed planned op mem).fits
    exact ((runAll_between fits start).2 _ _ ran).inv_raise _ _

theorem inv_of_port {port : List PortInput} (inv : Inv s) : Inv { s with port := port } :=
  ⟨⟨inv.quiescent.busy, inv.quiescent.cs, inv.quiescent.phase, inv.quiescent.delay⟩, inv.ptr, inv.left, inv.xbuf,
    inv.mirror, inv.complete, inv.configured, inv.err, inv.answered⟩

theorem inv_assertReset (s : State) : Inv (assertReset s) where
  quiescent := ⟨rfl, rfl, rfl, rfl⟩
  ptr := (by decide : (0 : BitVec 5) ≤ 16)
  left := (by decide : (0 : BitVec 5) ≤ 16)
  xbuf := rfl
  mirror := Memory.wf_nil
  complete := nofun
  configured := nofun
  err := (by decide : (0 : BitVec 4) ≤ 5)
  answered := rfl

/-- Settles O53: the reset input leads to the reset state from itself. -/
theorem resetMeetsTheInvariant : Obligations.ResetMeetsTheInvariant := inv_assertReset State.reset

/-- What a step of a controller that is not busy can be (R42, R70). -/
theorem step_cases (notBusy : s.busy = false) :
    (s.port = [] ∧ step s = .next s) ∨ (∃ rest, step s = .next (assertReset { s with port := rest })) ∨
      (∃ rest i, step s = exec i { s with port := rest }) ∨
      (∃ rest c, step s = .next (illegalCommand c { s with port := rest })) ∨
      ∃ bytes rest e, s.port = .request (.frame bytes) :: rest ∧ decodeFrame bytes = .error e ∧
        step s = .refused (.malformedFrame e) := by
  cases presented : s.port with
  | nil => exact .inl ⟨rfl, portWaitsWhenIdleOrBusy.1 s presented⟩
  | cons input rest =>
    refine .inr ?_
    cases input with
    | reset => exact .inl ⟨rest, ResetInput.step_of_reset presented⟩
    | request q =>
      refine .inr ?_
      have taken := Exceptions.step_of_request presented notBusy
      cases decoded : decode q with
      | ok i => exact .inl ⟨rest, i, stepRunsDecodedInstruction s q rest i presented notBusy decoded⟩
      | error e =>
        refine .inr ?_
        cases q with
        | command c =>
          exact .inl ⟨rest, c, taken.trans (Exceptions.runRequest_of_decodeCommand_eq_error _ decoded)⟩
        | frame bytes =>
          refine .inr ⟨bytes, rest, e, rfl, decoded, ?_⟩
          rw [taken, runRequest, decoded]

/-- Settles O54: the operations of a command keep what holds inside it, and each end restores the rest. -/
theorem stepKeepsTheInvariant : Obligations.StepKeepsTheInvariant := by
  intro s t inv h
  obtain ⟨-, stays⟩ | ⟨rest, resets⟩ | ⟨rest, i, runs⟩ | ⟨rest, c, illegal⟩ | ⟨_, _, _, -, -, refused⟩ :=
    step_cases inv.quiescent.busy
  · rw [stays] at h
    exact Host.Outcome.next.inj h ▸ inv
  · rw [resets] at h
    exact Host.Outcome.next.inj h ▸ inv_assertReset _
  · exact inv_of_exec (inv_of_port inv) (runs.symm.trans h)
  · rw [illegal] at h
    exact Host.Outcome.next.inj h ▸ (between_accept (inv_of_port inv)).toSound.inv_raise _ _
  · rw [refused] at h
    cases h

/-! ### No fault -/

theorem refusal_of_not_ready (needs : needsReady i = true) (notReady : s.life ≠ .ready) :
    refusal i s.life = some .notConstructed := by
  rw [refusal, if_pos ⟨needs, notReady⟩]

theorem ready_of_passed (passed : refusal i s.life = none) (needs : needsReady i = true) : s.life = .ready := by
  refine of_not_not fun notReady => ?_
  rw [refusal_of_not_ready needs notReady] at passed
  cases passed

/-- A complete mirror holds every byte a command sends (R123, R170). -/
theorem plan_isSome {m : Memory} (inRange : overrun i = none) (complete : needsReady i = true → MirrorComplete m) :
    (plan i m).isSome = true := by
  cases i with
  | wrr start count =>
    have fits : start.toNat + count.toNat ≤ 16 := by simpa [overrun] using inRange
    rw [plan, Option.isSome_map]
    exact Memory.readRange_isSome fun a _ below => complete rfl a (by simp only [Params.nreg]; omega)
  | oneshot =>
    rw [plan, Option.isSome_map]
    exact complete rfl 0 (by decide)
  | _ => rfl

/-- A complete mirror holds every byte a command decodes (R135, R181, R184, R188). -/
theorem answer_isSome {m : Memory} (complete : needsReady i = true → MirrorComplete m) :
    (answer i m).isSome = true := by
  have held (needs : needsReady i = true) {a : Nat} (inside : a < 16) : ∃ b, m.read a = some b :=
    Option.isSome_iff_exists.mp (complete needs a inside)
  cases i with
  | temp r =>
    obtain ⟨b0, h0⟩ := held rfl (a := Params.addrLtcbh) (by decide)
    obtain ⟨b1, h1⟩ := held rfl (a := Params.addrLtcbm) (by decide)
    obtain ⟨b2, h2⟩ := held rfl (a := Params.addrLtcbl) (by decide)
    obtain ⟨b3, h3⟩ := held rfl (a := Params.addrSr) (by decide)
    simp [answer, Memory.lt32, h0, h1, h2, h3]
  | cjt r =>
    obtain ⟨b0, h0⟩ := held rfl (a := Params.addrCjth) (by decide)
    obtain ⟨b1, h1⟩ := held rfl (a := Params.addrCjtl) (by decide)
    simp [answer, Memory.cjt, h0, h1]
  | flt r =>
    obtain ⟨b, h⟩ := held rfl (a := Params.addrSr) (by decide)
    simp [answer, Memory.flt, h]
  | mld addr =>
    obtain ⟨b, h⟩ := held rfl addr.isLt
    simp [answer, h]
  | _ => rfl

/-- Under the invariant every instruction comes to an end (R231). -/
theorem exec_ends (inv : Inv s) (i : Instr) : ∃ t, exec i s = .next t := by
  cases passed : refusal i s.life with
  | some c => exact ⟨_, exec_of_refused passed⟩
  | none =>
    have ready := ready_of_passed passed
    obtain ⟨ops, planned⟩ := Option.isSome_iff_exists.mp
      (plan_isSome (inRange_of_passed passed) fun needs => inv.complete (ready needs))
    have belongs := belongs_of_mem_plan passed planned
    rw [exec_of_not_refused passed, runPlan, planned, withValue_some]
    cases ran : runAll ops (accept s) with
    | failed c u => exact ⟨_, rfl⟩
    | done bytes u =>
      have life : u.life = s.life :=
        (runAll_keeps (s := accept s) (P := fun u => u.life = s.life) (fun op mem => (belongs op mem).fits)
          (fun _ _ _ _ effect kept => effect.life.trans kept) rfl).1 _ _ ran
      have between := (runAll_between (fun op mem => (belongs op mem).fits) (between_accept inv)).1 _ _ ran
      obtain ⟨rsp, answered⟩ := Option.isSome_iff_exists.mp
        (answer_isSome fun needs => between.complete (life.trans (ready needs)))
      rw [conclude, answered, withValue_some]
      exact ⟨_, rfl⟩

/-- Settles O55: a complete mirror holds every byte that a plan sends and an answer decodes. -/
theorem stepNeverFaultsUnderTheInvariant : Obligations.StepNeverFaultsUnderTheInvariant := by
  intro s inv
  obtain ⟨-, stays⟩ | ⟨rest, resets⟩ | ⟨rest, i, runs⟩ | ⟨rest, c, illegal⟩ | malformed :=
    step_cases inv.quiescent.busy
  · exact .inl ⟨_, stays⟩
  · exact .inl ⟨_, resets⟩
  · obtain ⟨t, ends⟩ := exec_ends (inv_of_port (port := rest) inv) i
    exact .inl ⟨t, runs.trans ends⟩
  · exact .inl ⟨_, illegal⟩
  · exact .inr malformed

/-! ### History and wire -/

/-- An exception outside a transaction leaves history and wire as they were (R210). -/
theorem agrees_raise_of_inactive {c : Cause} (noEvent : c.failureEvents = []) (inactive : u.cs = .inactive)
    (agrees : Agrees u.hist u.wire) (constructing : Bool) :
    Agrees (raise constructing c u).hist (raise constructing c u).wire := by
  simpa [noEvent, inactive] using agrees

theorem agrees_of_exec (inv : Inv s) (agrees : Agrees s.hist s.wire) (h : exec i s = .next t) :
    Agrees t.hist t.wire := by
  have inactive : s.cs = .inactive := inv.quiescent.cs
  have run {ops : List Op} (passed : refusal i s.life = none) (planned : plan i s.mirror = some ops) :=
    have fits := fun op mem => (belongs_of_mem_plan passed planned op mem).fits
    runAll_induct (s := accept s) (P := fun u => u.cs = .inactive ∧ Agrees u.hist u.wire)
      (Q := fun c u => ∀ constructing, Agrees (raise constructing c u).hist (raise constructing c u).wire)
      ⟨inactive, agrees⟩
      (fun op mem _ _ _ held ran =>
        have completion := (effect_of_done (fits op mem) ran).2
        ⟨completion.cs held.1, completion.agrees held.2⟩)
      fun op mem _ _ _ held ran => (effect_of_failed (fits op mem) ran).2.agrees held.1 held.2
  cases ended_of_exec h with
  | refused why =>
    obtain ⟨noEvent, -, -⟩ := refusal_frame why
    exact agrees_raise_of_inactive (u := accept s) noEvent inactive agrees false
  | completed passed planned ran answered =>
    rw [finish_hist, finish_wire]
    exact ((run passed planned).1 _ _ ran).2
  | failed passed planned ran => exact (run passed planned).2 _ _ ran _

/-- Settles O56: every operation that completes is shown whole, and the exception entry closes one that fails. -/
theorem stepKeepsHistoryAndWireInAgreement : Obligations.StepKeepsHistoryAndWireInAgreement := by
  intro s t inv agrees h
  obtain ⟨-, stays⟩ | ⟨rest, resets⟩ | ⟨rest, i, runs⟩ | ⟨rest, c, illegal⟩ | ⟨_, _, _, -, -, refused⟩ :=
    step_cases inv.quiescent.busy
  · rw [stays] at h
    exact Host.Outcome.next.inj h ▸ agrees
  · rw [resets] at h
    exact Host.Outcome.next.inj h ▸ .nil
  · exact agrees_of_exec (s := { s with port := rest }) (inv_of_port inv) agrees (runs.symm.trans h)
  · rw [illegal] at h
    exact Host.Outcome.next.inj h ▸
      agrees_raise_of_inactive (u := accept { s with port := rest }) rfl inv.quiescent.cs agrees false
  · rw [refused] at h
    cases h

end Sys2Proof.Invariance

/-! PROOFS. What the wire shows where history and wire agree: brackets, address bytes, the trace port
(spec/40_bus_transactions.md R120; spec/30_encoding.md R91, R102; spec/60_exceptions.md R222). -/

namespace Sys2Proof.Wire

open Machine

/-! ### Chip-select brackets every byte -/

/-- What stands on the wire between a select and its deselect. -/
def isExchange : WireEvent → Bool
  | .sent _ => true
  | .duplex _ _ => true
  | .broken => true
  | _ => false

theorem bracketedFrom_true_append {body : List WireEvent} (rest : List WireEvent)
    (exchanges : ∀ x ∈ body, isExchange x = true) :
    bracketedFrom true (body ++ .deselect :: rest) = bracketedFrom false rest := by
  induction body with
  | nil => rfl
  | cons x body ih =>
    obtain ⟨first, others⟩ := List.forall_mem_cons.mp exchanges
    cases x with
    | sent | duplex | broken => exact ih others
    | select | deselect | wait => cases first

theorem isExchange_of_mem_sent {bytes : List Byte} : ∀ x ∈ bytes.map WireEvent.sent, isExchange x = true :=
  List.forall_mem_map.mpr fun _ _ => rfl

theorem isExchange_of_mem_duplex {bytes received : List Byte} :
    ∀ x ∈ List.zipWith WireEvent.duplex bytes received, isExchange x = true := by
  rw [← List.map_uncurry_zip_eq_zipWith]
  exact List.forall_mem_map.mpr fun _ _ => rfl

theorem isExchange_of_mem_broken {body : List WireEvent} (exchanges : ∀ x ∈ body, isExchange x = true) :
    ∀ x ∈ body ++ [WireEvent.broken], isExchange x = true :=
  List.forall_mem_append.mpr ⟨exchanges, List.forall_mem_singleton.mpr rfl⟩

/-- One event on the wire: a select, exchanges, a deselect. -/
theorem shown_eq {e : BusEvent} {shown : List WireEvent} (renders : Renders e shown) :
    ∃ body : List WireEvent, shown = .select :: body ++ [.deselect] ∧ ∀ x ∈ body, isExchange x = true := by
  cases renders with
  | w a payload => exact ⟨(writeFrame a payload).map .sent, rfl, isExchange_of_mem_sent⟩
  | r a n x bytes => exact ⟨List.zipWith .duplex (readFrame a n) (x :: bytes), rfl, isExchange_of_mem_duplex⟩
  | fw a k payload =>
    refine ⟨((writeFrame a payload).take k).map .sent ++ [.broken], ?_,
      isExchange_of_mem_broken isExchange_of_mem_sent⟩
    rw [List.cons_append, List.cons_append, List.append_assoc]
    rfl
  | fr a n k received =>
    refine ⟨List.zipWith .duplex ((readFrame a n).take k) received ++ [.broken], ?_,
      isExchange_of_mem_broken isExchange_of_mem_duplex⟩
    rw [List.cons_append, List.cons_append, List.append_assoc]
    rfl

/-- Where history and wire agree the wire is balanced, so what follows is judged on its own. -/
theorem bracketedFrom_append {hist : List BusEvent} {wire : List WireEvent} (agrees : Agrees hist wire)
    (rest : List WireEvent) : bracketedFrom false (wire ++ rest) = bracketedFrom false rest := by
  induction agrees generalizing rest with
  | nil => rfl
  | wait hist wire d _ ih =>
    rw [List.append_assoc, ih]
    rfl
  | event hist wire shown e _ renders ih =>
    obtain ⟨body, rfl, exchanges⟩ := shown_eq renders
    rw [List.append_assoc, ih]
    simpa [bracketedFrom] using bracketedFrom_true_append rest exchanges

/-- Settles O57: every event is shown as a select, exchanges and a deselect; waits stand between events. -/
theorem chipSelectBracketsEveryByte : Obligations.ChipSelectBracketsEveryByte := by
  intro hist wire agrees
  simpa [bracketedFrom] using bracketedFrom_append agrees []

/-! ### The frame of each event -/

/-- The address byte of a transaction (R91). -/
def addressByte (d : Dir) (a : Nat) : Byte :=
  match d with
  | .wr => 0x80#8 ||| BitVec.ofNat 8 a
  | .rd => BitVec.ofNat 8 a

/-- The bytes that crossed the bus in the frame of an event. -/
inductive FrameOf : BusEvent → FrameBytes → Prop where
  | w {a : Nat} {payload : List Byte} (inside : a < 16) :
      FrameOf (.w a payload) { sent := addressByte .wr a :: payload, received := [] }
  | r {a n : Nat} {x : Byte} {bytes : List Byte} (inside : a < 16) :
      FrameOf (.r a n bytes) { sent := addressByte .rd a :: List.replicate n 0x00#8, received := x :: bytes }
  | f {d : Dir} {a k : Nat} {data received : List Byte} (inside : a < 16) (k_le : k ≤ data.length + 1) :
      FrameOf (.f d a k) { sent := (addressByte d a :: data).take k, received := received }

theorem framesFrom_sent (f : FrameBytes) (bytes : List Byte) (rest : List WireEvent) :
    framesFrom f (bytes.map .sent ++ rest) = framesFrom { f with sent := f.sent ++ bytes } rest := by
  induction bytes generalizing f with
  | nil => simp
  | cons b bytes ih => simp [framesFrom, ih]

theorem framesFrom_duplex (f : FrameBytes) {bytes received : List Byte} (rest : List WireEvent)
    (length : received.length = bytes.length) :
    framesFrom f (List.zipWith .duplex bytes received ++ rest) =
      framesFrom { sent := f.sent ++ bytes, received := f.received ++ received } rest := by
  induction bytes generalizing f received with
  | nil =>
    obtain rfl := List.length_eq_zero_iff.mp length
    simp
  | cons b bytes ih =>
    cases received with
    | nil => cases length
    | cons r received => simp [framesFrom, ih _ (Nat.succ.inj length)]

/-- One event adds its own frame to those on the wire. -/
theorem framesOf_shown {e : BusEvent} {shown : List WireEvent} (renders : Renders e shown) :
    ∃ f, FrameOf e f ∧ ∀ rest, framesOf (shown ++ rest) = f :: framesOf rest := by
  cases renders with
  | w a payload fits =>
    refine ⟨_, .w ((burstFits_iff _ _).mp fits).1, fun rest => ?_⟩
    simp only [wireOfWrite, framesOf, framesFrom, List.cons_append, List.append_assoc, framesFrom_sent]
    rfl
  | r a n x bytes fits length =>
    refine ⟨_, .r (x := x) ((burstFits_iff _ _).mp fits).1, fun rest => ?_⟩
    have same : (x :: bytes).length = (readFrame a n).length := by simp [readFrame, length]
    simp only [wireOfRead, framesOf, framesFrom, List.cons_append, List.append_assoc, framesFrom_duplex _ _ same]
    rfl
  | fw a k payload fits k_le =>
    refine ⟨_, .f (data := payload) (received := []) ((burstFits_iff _ _).mp fits).1 (by omega), fun rest => ?_⟩
    simp only [framesOf, framesFrom, List.cons_append, List.append_assoc, framesFrom_sent]
    rfl
  | fr a n k received fits k_le length =>
    refine ⟨_, .f (data := List.replicate n 0x00#8) (received := received) ((burstFits_iff _ _).mp fits).1 ?_,
      fun rest => ?_⟩
    · simp
      omega
    · have same : received.length = ((readFrame a n).take k).length := by simp [readFrame, length]; omega
      simp only [framesOf, framesFrom, List.cons_append, List.append_assoc, framesFrom_duplex _ _ same]
      rfl

/-- Where history and wire agree, the frames on the wire are those of the events, in order. -/
theorem framesOf_append {hist : List BusEvent} {wire : List WireEvent} (agrees : Agrees hist wire) :
    ∃ frames, List.Forall₂ FrameOf hist frames ∧ ∀ rest, framesOf (wire ++ rest) = frames ++ framesOf rest := by
  induction agrees with
  | nil => exact ⟨[], .nil, fun _ => rfl⟩
  | wait hist wire d _ ih =>
    obtain ⟨frames, each, append⟩ := ih
    exact ⟨frames, each, fun rest => by rw [List.append_assoc, append]; rfl⟩
  | event hist wire shown e _ renders ih =>
    obtain ⟨frames, each, append⟩ := ih
    obtain ⟨f, frame, own⟩ := framesOf_shown renders
    refine ⟨frames ++ [f], List.rel_append each (.cons frame .nil), fun rest => ?_⟩
    rw [List.append_assoc, append, own, List.append_assoc]
    rfl

theorem forall₂_framesOf {hist : List BusEvent} {wire : List WireEvent} (agrees : Agrees hist wire) :
    List.Forall₂ FrameOf hist (framesOf wire) := by
  obtain ⟨frames, each, append⟩ := framesOf_append agrees
  have all := append []
  rw [List.append_nil] at all
  rw [all]
  simpa [framesOf, framesFrom] using each

theorem exists_getElem?_of_forall₂ {α β : Type} {R : α → β → Prop} {xs : List α} {ys : List β}
    (each : List.Forall₂ R xs ys) {n : Nat} {y : β} (found : ys[n]? = some y) : ∃ x, xs[n]? = some x ∧ R x y := by
  obtain ⟨inside, rfl⟩ := List.getElem?_eq_some_iff.mp found
  have inside' : n < xs.length := each.length_eq ▸ inside
  exact ⟨xs[n], List.getElem?_eq_getElem inside', each.get inside' inside⟩

/-! ### The address bytes -/

/-- The registers are addressed by four bits, so bits 6:4 are 0 and bit 7 is the direction (R91, R102). -/
theorem addressByte_bits {a : Nat} (d : Dir) (inside : a < 16) :
    (addressByte d a).extractLsb' 4 3 = 0 ∧ ((addressByte d a).getLsbD 7 = true ↔ d = .wr) := by
  have all : ∀ a : Fin 16, (addressByte d a).extractLsb' 4 3 = 0 ∧ ((addressByte d a).getLsbD 7 = true ↔ d = .wr) := by
    cases d <;> decide
  exact all ⟨a, inside⟩

/-- The first byte of an event's frame. -/
theorem FrameOf.head {e : BusEvent} {f : FrameBytes} {b : Byte} (frame : FrameOf e f) (head : f.sent.head? = some b) :
    ∃ d a, a < 16 ∧ b = addressByte d a ∧ (d = .wr ↔ (∃ a ds, e = .w a ds) ∨ ∃ a k, e = .f .wr a k) := by
  cases frame with
  | w inside => exact ⟨.wr, _, inside, (Option.some.inj head).symm, by simp⟩
  | r inside => exact ⟨.rd, _, inside, (Option.some.inj head).symm, by simp⟩
  | @f d a k data received inside =>
    cases k with
    | zero => cases head
    | succ k => exact ⟨d, _, inside, (Option.some.inj head).symm, by simp⟩

/-- Settles O58: the frames are those of the events in order, and each begins with its event's address byte. -/
theorem addressBytesNameTheRegisters : Obligations.AddressBytesNameTheRegisters := by
  intro hist wire agrees
  have each := forall₂_framesOf agrees
  refine ⟨each.length_eq.symm, fun n f b found head => ?_⟩
  obtain ⟨e, event, frame⟩ := exists_getElem?_of_forall₂ each found
  obtain ⟨d, a, inside, rfl, direction⟩ := frame.head head
  obtain ⟨zeros, flag⟩ := addressByte_bits d inside
  refine ⟨zeros, flag.trans (direction.trans ⟨fun write => ⟨e, event, write⟩, fun ⟨e', event', write⟩ => ?_⟩)⟩
  obtain rfl : e = e' := Option.some.inj (event.symm.trans event')
  exact write

/-! ### The trace port -/

/-- Settles O59: the record of an event carries the bytes of its frame. -/
theorem tracePortShowsEachTransaction : Obligations.TracePortShowsEachTransaction := by
  intro s agrees
  have each := forall₂_framesOf agrees
  refine ⟨by simp [tracePort, each.length_eq], fun n e shown found presented => ?_⟩
  obtain ⟨e', f, found', frame, rfl⟩ :
      ∃ e' f, s.hist[n]? = some e' ∧ (framesOf s.wire)[n]? = some f ∧ traceRecord e' f = shown := by
    simpa [tracePort, List.getElem?_zipWith_eq_some] using presented
  obtain rfl : e' = e := Option.some.inj (found'.symm.trans found)
  obtain ⟨e'', event, frame⟩ := exists_getElem?_of_forall₂ each frame
  obtain rfl : e'' = e' := Option.some.inj (event.symm.trans found)
  cases frame with
  | w => exact ⟨fun a ds h => by cases h; rfl, nofun, nofun⟩
  | r => exact ⟨nofun, fun a k bytes h => by cases h; exact ⟨_, rfl⟩, nofun⟩
  | f inside k_le =>
    refine ⟨nofun, nofun, fun d a k h => ?_⟩
    cases h
    exact ⟨rfl, rfl, rfl, by simpa [traceRecord] using k_le⟩

end Sys2Proof.Wire

/-! PROOFS. What no instruction reads: two states that differ only in the history, or only in what the sequencer holds
between commands, end alike (spec/10_state.md R25, R28). Both are relations between states that every operation
keeps. -/

namespace Sys2Proof.Noninterference

open Machine Plan

/-- A relation between states that agree on all that instructions read, and that every update keeps. -/
structure Congruence (R : State → State → Prop) : Prop where
  life {s s' : State} : R s s' → s'.life = s.life
  mirror {s s' : State} : R s s' → s'.mirror = s.mirror
  answers {s s' : State} : R s s' → s'.answers = s.answers
  draws {s s' : State} : R s s' → s'.draws = s.draws
  accept {s s' : State} : R s s' → R (accept s) (accept s')
  finish {s s' : State} (i : Instr) (rsp : Word) : R s s' → R (finish i rsp s) (finish i rsp s')
  raise {s s' : State} (b : Bool) (c : Cause) : R s s' → R (raise b c s) (raise b c s')
  configure {s s' : State} : R s s' → R (initConfigure (initRelease s)) (initConfigure (initRelease s'))
  wait {s s' : State} : R s s' → R (expireDelay (startDelay s)) (expireDelay (startDelay s'))
  store {s s' : State} (m : Memory) : R s s' → R { s with mirror := m } { s' with mirror := m }
  draw {s s' : State} (n : Nat) : R s s' → R { s with draws := n } { s' with draws := n }
  afterWrite {s s' : State} (a : Nat) (payload : List Byte) (A : List Answer) (D : Nat) :
    R s s' → R (afterWrite a payload A D s) (afterWrite a payload A D s')
  afterRead {s s' : State} (a n : Nat) (x : Byte) (bytes : List Byte) (A : List Answer) (D : Nat) :
    R s s' → R (afterRead a n x bytes A D s) (afterRead a n x bytes A D s')
  brokenWrite {s s' : State} (a : Nat) (payload rs : List Byte) (A : List Answer) (D : Nat) :
    R s s' → R (brokenWrite a payload rs A D s) (brokenWrite a payload rs A D s')
  brokenRead {s s' : State} (a n : Nat) (rs : List Byte) (A : List Answer) (D : Nat) :
    R s s' → R (brokenRead a n rs A D s) (brokenRead a n rs A D s')

/-- Two operations, or two runs, end alike. -/
inductive Alike (R : State → State → Prop) : Tx → Tx → Prop where
  | done {bytes bytes' : List Byte} {u u' : State} (related : R u u') : Alike R (.done bytes u) (.done bytes' u')
  | failed {c : Cause} {u u' : State} (related : R u u') : Alike R (.failed c u) (.failed c u')

section

variable {R : State → State → Prop} (congruence : Congruence R) {s s' t : State}

include congruence

theorem alike_push (a : Nat) (payload : List Byte) (related : R s s') :
    Alike R (busWrite a payload s) (busWrite a payload s') := by
  have answers := congruence.answers related
  have draws := congruence.draws related
  obtain ⟨A, D, done | ⟨rs, -, failed⟩⟩ := busWrite_cases a payload s.answers s.draws
  · rw [done s rfl rfl, done s' answers draws]
    exact .done (congruence.afterWrite _ _ _ _ related)
  · rw [failed s rfl rfl, failed s' answers draws]
    exact .failed (congruence.brokenWrite _ _ _ _ _ related)

theorem alike_read (a n : Nat) (related : R s s') : Alike R (busRead a n s) (busRead a n s') := by
  have answers := congruence.answers related
  have draws := congruence.draws related
  obtain ⟨A, D, ⟨x, bytes, -, done⟩ | ⟨rs, -, failed⟩⟩ := busRead_cases a n s.answers s.draws
  · rw [done s rfl rfl, done s' answers draws]
    exact .done (congruence.afterRead _ _ _ _ _ _ related)
  · rw [failed s rfl rfl, failed s' answers draws]
    exact .failed (congruence.brokenRead _ _ _ _ _ related)

theorem related_tear (a n : Nat) (related : R s s') : R (tear a n s) (tear a n s') := by
  have stored := congruence.draw (s.draws + n) (congruence.store
    (s.mirror.writeRange a ((List.range n).map fun j => Config.tornByte (s.draws + j))) related)
  rw [tear, tear, congruence.mirror related, congruence.draws related]
  exact stored

theorem alike_pull (a n : Nat) (related : R s s') : Alike R (pull a n s) (pull a n s') := by
  have answers := congruence.answers related
  have draws := congruence.draws related
  obtain ⟨A, D, ⟨x, bytes, -, done⟩ | ⟨rs, -, failed⟩⟩ := pull_cases a n s.answers s.draws
  · rw [done s rfl rfl, done s' answers draws, congruence.mirror related]
    exact .done (congruence.store _ (congruence.afterRead _ _ _ _ _ _ related))
  · rw [failed s rfl rfl, failed s' answers draws]
    exact .failed (related_tear congruence _ _ (congruence.brokenRead _ _ _ _ _ related))

theorem alike_run (op : Op) (related : R s s') : Alike R (op.run s) (op.run s') := by
  cases op with
  | configure => exact .done (congruence.configure related)
  | stage a b =>
    rw [Op.run, Op.run, stage, stage, congruence.mirror related]
    exact .done (congruence.store _ related)
  | push a payload => exact alike_push congruence a payload related
  | read a n => exact alike_read congruence a n related
  | pull a n => exact alike_pull congruence a n related
  | wait => exact .done (congruence.wait related)
  | reject tsel => exact .failed related

theorem alike_runAll (ops : List Op) (related : R s s') : Alike R (runAll ops s) (runAll ops s') := by
  induction ops generalizing s s' with
  | nil => exact .done related
  | cons op ops ih =>
    have step := alike_run congruence op related
    rw [runAll_cons, runAll_cons]
    generalize op.run s = tx, op.run s' = tx' at step
    cases step with
    | done related' => exact ih related'
    | failed related' => exact .failed related'

/-- From related states an instruction ends in related states. -/
theorem exec_related {i : Instr} (related : R s s') (h : exec i s = .next t) :
    ∃ t', exec i s' = .next t' ∧ R t t' := by
  have life := congruence.life related
  have accepted := congruence.accept related
  cases passed : refusal i s.life with
  | some c =>
    rw [exec_of_refused passed] at h
    exact ⟨_, exec_of_refused (life.symm ▸ passed), Host.Outcome.next.inj h ▸ congruence.raise _ _ accepted⟩
  | none =>
    rw [exec_of_not_refused passed] at h
    obtain ⟨ops, planned, h⟩ := Transfers.withValue_cases h
    have run := alike_runAll congruence ops accepted
    rw [exec_of_not_refused (life.symm ▸ passed), runPlan, congruence.mirror related, planned, withValue_some]
    generalize runAll ops (accept s) = tx, runAll ops (accept s') = tx' at h run
    cases run with
    | done related' =>
      obtain ⟨rsp, answered, h⟩ := Transfers.withValue_cases h
      rw [conclude, congruence.mirror related', answered, withValue_some]
      exact ⟨_, rfl, Host.Outcome.next.inj h ▸ congruence.finish _ _ related'⟩
    | failed related' => exact ⟨_, rfl, Host.Outcome.next.inj h ▸ congruence.raise _ _ related'⟩

end

/-! ### Two states that differ only in the history -/

/-- The same state after another history: `h` stands where `h₀` stands. -/
def SameButHistory (h₀ h : List BusEvent) (s s' : State) : Prop :=
  ∃ es, s.hist = h₀ ++ es ∧ s' = { s with hist := h ++ es }

theorem brokenFrame_hist_update (ts rs : List Byte) (A : List Answer) (D : Nat) (s : State) (h : List BusEvent) :
    brokenFrame ts rs A D { s with hist := h } = { brokenFrame ts rs A D s with hist := h } := by
  unfold brokenFrame
  split <;> rfl

theorem congruence_sameButHistory (h₀ h : List BusEvent) : Congruence (SameButHistory h₀ h) where
  life := by rintro s _ ⟨es, hist, rfl⟩; rfl
  mirror := by rintro s _ ⟨es, hist, rfl⟩; rfl
  answers := by rintro s _ ⟨es, hist, rfl⟩; rfl
  draws := by rintro s _ ⟨es, hist, rfl⟩; rfl
  accept := by rintro s _ ⟨es, hist, rfl⟩; exact ⟨es, hist, rfl⟩
  finish := by rintro s _ i rsp ⟨es, hist, rfl⟩; exact ⟨es, by rwa [Frames.finish_hist], by cases i <;> rfl⟩
  raise := by
    rintro s _ b c ⟨es, hist, rfl⟩
    refine ⟨es ++ c.failureEvents, by rw [raise_hist, hist, List.append_assoc], ?_⟩
    rw [← List.append_assoc]
    rfl
  configure := by rintro s _ ⟨es, hist, rfl⟩; exact ⟨es, hist, rfl⟩
  wait := by rintro s _ ⟨es, hist, rfl⟩; exact ⟨es, hist, rfl⟩
  store := by rintro s _ m ⟨es, hist, rfl⟩; exact ⟨es, hist, rfl⟩
  draw := by rintro s _ n ⟨es, hist, rfl⟩; exact ⟨es, hist, rfl⟩
  afterWrite := by
    rintro s _ a payload A D ⟨es, hist, rfl⟩
    refine ⟨es ++ [.w a payload], by rw [afterWrite_hist, hist, List.append_assoc], ?_⟩
    rw [← List.append_assoc]
    rfl
  afterRead := by
    rintro s _ a n x bytes A D ⟨es, hist, rfl⟩
    refine ⟨es ++ [.r a n bytes], by rw [afterRead_hist, hist, List.append_assoc], ?_⟩
    rw [← List.append_assoc]
    rfl
  brokenWrite := by
    rintro s _ a payload rs A D ⟨es, hist, rfl⟩
    exact ⟨es, by rwa [brokenWrite_hist],
      brokenFrame_hist_update _ rs A D (startTransaction .wr a payload.length (writeFrame a payload) s) (h ++ es)⟩
  brokenRead := by
    rintro s _ a n rs A D ⟨es, hist, rfl⟩
    exact ⟨es, by rwa [brokenRead_hist],
      brokenFrame_hist_update _ rs A D (startTransaction .rd a n (readFrame a n) s) (h ++ es)⟩

/-- Settles O51: the events an instruction appends are those that any two histories leave. -/
theorem historyIsAppendedToAndNeverRead : Obligations.HistoryIsAppendedToAndNeverRead := by
  intro i s t run
  have after (h : List BusEvent) : ∃ t', exec i { s with hist := h } = .next t' ∧ SameButHistory s.hist h t t' :=
    exec_related (congruence_sameButHistory s.hist h) ⟨[], by simp⟩ run
  obtain ⟨-, -, es, appended, -⟩ := after s.hist
  refine ⟨es, appended, fun h => ?_⟩
  obtain ⟨t', run', es', appended', rfl⟩ := after h
  obtain rfl : es = es' := List.append_cancel_left (appended.symm.trans appended')
  exact run'

/-! ### Two states that differ only in what the sequencer holds -/

/-- The same state but for the sequencer's fields. -/
def SameButSequencer (s s' : State) : Prop :=
  ∃ ptr left dir xbuf, s' = { s with ptr := ptr, left := left, dir := dir, xbuf := xbuf }

/-- A transaction sets the pointer, the counter and the direction, and overwrites the head of the buffer. -/
theorem sameButSequencer_broken (d : Dir) (a n : Nat) (request ts rs : List Byte) (A : List Answer) (D : Nat)
    (s : State) (ptr left : BitVec 5) (dir : Dir) (xbuf : List Byte) :
    SameButSequencer (brokenFrame ts rs A D (startTransaction d a n request s)) (brokenFrame ts rs A D
      (startTransaction d a n request { s with ptr := ptr, left := left, dir := dir, xbuf := xbuf })) := by
  unfold brokenFrame
  split <;> exact ⟨_, _, _, _, rfl⟩

theorem congruence_sameButSequencer : Congruence SameButSequencer where
  life := by rintro s _ ⟨ptr, left, dir, xbuf, rfl⟩; rfl
  mirror := by rintro s _ ⟨ptr, left, dir, xbuf, rfl⟩; rfl
  answers := by rintro s _ ⟨ptr, left, dir, xbuf, rfl⟩; rfl
  draws := by rintro s _ ⟨ptr, left, dir, xbuf, rfl⟩; rfl
  accept := by rintro s _ ⟨ptr, left, dir, xbuf, rfl⟩; exact ⟨_, _, _, _, rfl⟩
  finish := by rintro s _ i rsp ⟨ptr, left, dir, xbuf, rfl⟩; exact ⟨ptr, left, dir, xbuf, by cases i <;> rfl⟩
  raise := by rintro s _ b c ⟨ptr, left, dir, xbuf, rfl⟩; exact ⟨_, _, _, _, rfl⟩
  configure := by rintro s _ ⟨ptr, left, dir, xbuf, rfl⟩; exact ⟨_, _, _, _, rfl⟩
  wait := by rintro s _ ⟨ptr, left, dir, xbuf, rfl⟩; exact ⟨_, _, _, _, rfl⟩
  store := by rintro s _ m ⟨ptr, left, dir, xbuf, rfl⟩; exact ⟨_, _, _, _, rfl⟩
  draw := by rintro s _ n ⟨ptr, left, dir, xbuf, rfl⟩; exact ⟨_, _, _, _, rfl⟩
  afterWrite := by rintro s _ a payload A D ⟨ptr, left, dir, xbuf, rfl⟩; exact ⟨_, _, _, _, rfl⟩
  afterRead := by rintro s _ a n x bytes A D ⟨ptr, left, dir, xbuf, rfl⟩; exact ⟨_, _, _, _, rfl⟩
  brokenWrite := by rintro s _ a payload rs A D ⟨ptr, left, dir, xbuf, rfl⟩; exact sameButSequencer_broken ..
  brokenRead := by rintro s _ a n rs A D ⟨ptr, left, dir, xbuf, rfl⟩; exact sameButSequencer_broken ..

/-- Settles O52: every operation keeps the relation. -/
theorem sequencerLeftoversAreNeverRead : Obligations.SequencerLeftoversAreNeverRead := by
  intro i s t ptr left dir xbuf run
  obtain ⟨t', run', ptr', left', dir', xbuf', rfl⟩ :=
    exec_related congruence_sameButSequencer ⟨ptr, left, dir, xbuf, rfl⟩ run
  exact ⟨ptr', left', dir', xbuf', run'⟩

end Sys2Proof.Noninterference

/-! PROOFS. Transactions whose answers are known: what a completed one leaves, and what a failing one leaves after the
error exit (spec/40_bus_transactions.md R121, R123 to R126, R159, R170; spec/60_exceptions.md R202, R210). -/

namespace Sys2Proof.KnownAnswers

open Machine

/-! ### The information words of a failed transaction (R200) -/

theorem info_rd_fields (start : BitVec 4) {k : Nat} :
    (Cause.busTransportFailure .rd start.toNat k).info = 0#20 ++ start ++ 0#3 ++ BitVec.ofNat 5 k := by
  rw [Cause.info, BitVec.ofNat_toNat, BitVec.setWidth_eq]
  rfl

theorem info_wr_or {a k : Nat} (ha : a < 16) (hk : k ≤ 16) :
    (Cause.busTransportFailure .wr a k).info = 0x10000#32 ||| BitVec.ofNat 32 (a * 256 + k) := by
  have all : ∀ a : Fin 16, ∀ k : Fin 17, (Cause.busTransportFailure .wr a k).info =
      0x10000#32 ||| BitVec.ofNat 32 (a * 256 + k) := by decide +kernel
  exact all ⟨a, ha⟩ ⟨k, by omega⟩

theorem info_wr_fields (start : BitVec 4) {k : Nat} (hk : k ≤ 16) :
    (Cause.busTransportFailure .wr start.toNat k).info =
      1#16 ++ (0#4 ++ start ++ 0#3 ++ BitVec.ofNat 5 k : BitVec 16) := by
  have all : ∀ start : BitVec 4, ∀ k : Fin 17, (Cause.busTransportFailure .wr start.toNat k).info =
      1#16 ++ (0#4 ++ start ++ 0#3 ++ BitVec.ofNat 5 k : BitVec 16) := by decide +kernel
  exact all start ⟨k, by omega⟩

theorem info_wr_zero {k : Nat} (hk : k ≤ 16) :
    (Cause.busTransportFailure .wr 0 k).info = 0x10000#32 ||| BitVec.ofNat 32 k := by
  simpa using info_wr_or (a := 0) (by decide) hk

theorem info_rd_zero {k : Nat} (hk : k ≤ 16) : (Cause.busTransportFailure .rd 0 k).info = BitVec.ofNat 32 k := by
  simpa using info_rd (a := 0) (by decide) hk

/-- The information word of a failed read of the data registers (R130, R200). -/
theorem info_rd_data {k : Nat} (hk : k ≤ 16) :
    (Cause.busTransportFailure .rd 0x0A k).info = 0xA00#32 ||| BitVec.ofNat 32 k := by
  have all : ∀ k : Fin 17, BitVec.ofNat 32 (0x0A * 256 + k) = 0xA00#32 ||| BitVec.ofNat 32 k := by decide
  exact (info_rd (by decide) hk).trans (all ⟨k, by omega⟩)

/-! ### After the error exit -/

section

variable (constructing : Bool) (a n : Nat) (payload rs : List Byte) (A : List Answer) (D : Nat) (s : State)

/-- The state a command leaves when a write fails after `rs` came back. -/
def afterFailedWrite : State :=
  raise constructing (.busTransportFailure .wr a rs.length) (brokenWrite a payload rs A D s)

/-- The state a command leaves when a read into the mirror fails after `rs` came back. -/
def afterFailedPull : State :=
  raise constructing (.busTransportFailure .rd a rs.length) (tear a n (brokenRead a n rs A D s))

variable {constructing a n payload rs A D s}

/-- The frame breaks off, and the error exit releases chip-select (R120, R121, R210). -/
theorem afterFailedWrite_wire : (afterFailedWrite constructing a payload rs A D s).wire = s.wire ++
    (.select :: (((0x80#8 ||| BitVec.ofNat 8 a) :: payload).take rs.length).map .sent ++ [.broken, .deselect]) := by
  simp [afterFailedWrite, brokenWrite_wire, writeFrame, Params.writeFlag]

theorem afterFailedWrite_hist :
    (afterFailedWrite constructing a payload rs A D s).hist = s.hist ++ [.f .wr a rs.length] := by
  simp [afterFailedWrite, Cause.failureEvents]

theorem afterFailedPull_hist :
    (afterFailedPull constructing a n rs A D s).hist = s.hist ++ [.f .rd a rs.length] := by
  simp [afterFailedPull, Cause.failureEvents]

/-- A failed read leaves the mirror outside its range as it was (R126). -/
theorem afterFailedPull_read_outside {x : Nat} (outside : x < a ∨ a + n ≤ x) :
    (afterFailedPull constructing a n rs A D s).mirror.read x = s.mirror.read x := by
  rw [afterFailedPull, raise_mirror, tear_mirror, brokenRead_mirror]
  exact Memory.read_writeRange_outside _ _ (by simpa using outside)

/-- A failed read leaves some byte at every address of its range (R126; log entry 3). -/
theorem afterFailedPull_read_isSome {x : Nat} (above : a ≤ x) (below : x < a + n) :
    ((afterFailedPull constructing a n rs A D s).mirror.read x).isSome = true := by
  rw [afterFailedPull, raise_mirror, tear_mirror]
  exact Memory.isSome_read_writeRange (.inl ⟨above, by simpa using below⟩)

end

/-! ### Bare frames -/

/-- Settles O13: both outcomes of the write transaction, between acceptance and the opening of the port. -/
theorem busWriteSendsItsFrame : Obligations.BusWriteSendsItsFrame := by
  intro a payload received rest s inside fits
  have runs : exec (.busWrite a payload) s = .next ((busWrite a.toNat payload (accept s)).orRaise false release) := by
    rw [exec, execBusWrite, if_pos ((burstFits_iff _ _).mpr ⟨inside, fits⟩)]
  refine ⟨fun length heard => ?_, fun length fails => ?_⟩
  · have heard' : Heard (accept s) received rest := heard
    rw [runs, busWrite_heard _ _ heard' length, orRaise_done, ← wireOfWrite_eq]
    rfl
  · have fails' : HeardThenFails (accept s) received rest := fails
    rw [busWrite_fails _ _ fails' length, orRaise_failed] at runs
    refine ⟨_, runs, rfl, ?_, rfl, rfl, rfl, ?_, ?_, afterFailedWrite_hist, afterFailedWrite_wire⟩
    · rw [raise_resp, info_wr_or inside (by omega)]
      rfl
    · simp
    · simp

/-- Settles O14: both outcomes of the read transaction, between acceptance and the opening of the port. -/
theorem busReadCapturesItsBytes : Obligations.BusReadCapturesItsBytes := by
  intro a n x bytes rest s inside fits
  have runs : exec (.busRead a n) s = .next ((busRead a.toNat n.toNat (accept s)).orRaise false release) := by
    rw [exec, execBusRead, if_pos ((burstFits_iff _ _).mpr ⟨inside, fits⟩)]
  refine ⟨fun length heard => ?_, fun length fails => ?_⟩
  · have heard' : Heard (accept s) (x :: bytes) rest := heard
    rw [runs, busRead_heard _ _ heard' length, orRaise_done, ← wireOfRead_eq _ _ length]
    rfl
  · have fails' : HeardThenFails (accept s) bytes rest := fails
    rw [busRead_fails _ _ fails' length, orRaise_failed] at runs
    refine ⟨_, runs, rfl, ?_, rfl, rfl, rfl, ?_, ?_, ?_⟩
    · rw [raise_resp, info_rd inside (by omega)]
      rfl
    · simp
    · simp
    · simp [Cause.failureEvents]

/-- Settles O11: the range check of a frame comes before any bus activity. -/
theorem framesOutsideTheRegistersAreTurnedAway : Obligations.FramesOutsideTheRegistersAreTurnedAway := by
  have outside {a n : Nat} (h : 16 < a + n ∨ 16 ≤ a) : ¬burstFits a n = true := by
    rw [burstFits_iff]
    omega
  refine ⟨fun a n s quiet past => ⟨(Cause.rangeError a n).info, ?_⟩,
    fun a payload s quiet past => ⟨(Cause.rangeError a (BitVec.ofNat 5 payload.length)).info, ?_⟩⟩
  · rw [exec, execBusRead, if_neg (outside past), Exceptions.raise_accept_of_quiescent quiet rfl]
    rfl
  · rw [exec, execBusWrite, if_neg (outside past), Exceptions.raise_accept_of_quiescent quiet rfl]
    rfl

/-! ### `WRR` and `RDR` -/

theorem exec_wrr_of_ready {start : BitVec 4} {count : BitVec 5} {payload : List Byte} {s : State}
    (ready : s.life = .ready) (fits : start.toNat + count.toNat ≤ 16)
    (held : s.mirror.readRange start.toNat count.toNat = some payload) :
    exec (.wrr start count) s = .next ((busWrite start.toNat payload (accept s)).orRaise false (respond 0)) := by
  rw [exec, execWrr, whenReady_ready _ ((accept_life s).trans ready), whenInRange_in _ _ fits, accept_mirror, held,
    withValue_some]

/-- Settles O15: the write transaction of the range, then the answer 0. -/
theorem wrrPushesTheMirrorRange : Obligations.WrrPushesTheMirrorRange := by
  intro start count payload received rest s ready fits held length heard
  have payloadLength := Memory.length_of_readRange held
  have heard' : Heard (accept s) received rest := heard
  rw [exec_wrr_of_ready ready fits held, busWrite_heard _ _ heard' (payloadLength ▸ length), orRaise_done,
    ← wireOfWrite_eq, ← payloadLength]
  rfl

/-- Settles O31: the write breaks off, and the error exit leaves the mirror alone. -/
theorem wrrReportsABrokenWrite : Obligations.WrrReportsABrokenWrite := by
  intro start count payload rs rest s ready fits held length fails
  have payloadLength := Memory.length_of_readRange held
  have fails' : HeardThenFails (accept s) rs rest := fails
  have runs := exec_wrr_of_ready ready fits held
  rw [busWrite_fails _ _ fails' (payloadLength ▸ length), orRaise_failed] at runs
  refine ⟨_, runs, rfl, ?_, rfl, rfl, rfl, ?_, ?_, afterFailedWrite_hist, ?_, afterFailedWrite_wire⟩
  · rw [raise_resp, info_wr_fields _ (by omega)]
    rfl
  · simpa using ready
  · simp
  · simp

/-- Settles O16: the completed `RDR`, its wire written out byte by byte. -/
theorem rdrPullsIntoTheMirrorRange : Obligations.RdrPullsIntoTheMirrorRange := by
  intro start count x bytes rest s ready fits length heard
  rw [Transfers.exec_rdr_heard ready fits length heard, ← wireOfRead_eq _ _ length]
  rfl

/-- Settles O17: the range write of the captured bytes, read back. -/
theorem rdrStoresEachByteAtItsAddress : Obligations.RdrStoresEachByteAtItsAddress := by
  intro start count x bytes rest s ready fits length heard
  refine ⟨_, Transfers.exec_rdr_heard ready fits length heard, fun i inside => ?_, fun a outside => ?_⟩
  · refine (Memory.read_writeRange bytes s.mirror start.toNat (start.toNat + i)).trans ?_
    rw [if_pos ⟨by omega, by omega⟩, Nat.add_sub_cancel_left]
  · exact Memory.read_writeRange_outside s.mirror bytes (length ▸ outside)

/-- Settles O30: the read breaks off, and every byte of its range is drawn. -/
theorem rdrReportsABrokenRead : Obligations.RdrReportsABrokenRead := by
  intro start count rs rest s ready fits length fails
  have fails' : HeardThenFails (accept s) rs rest := fails
  have runs := Transfers.exec_rdr_of_ready ready fits
  rw [pull_fails _ _ fails' length, orRaise_failed] at runs
  refine ⟨_, runs, rfl, ?_, rfl, rfl, rfl, ?_, afterFailedPull_hist, ?_,
    fun a outside => afterFailedPull_read_outside outside, fun a above below => afterFailedPull_read_isSome above below⟩
  · rw [raise_resp, info_rd_fields]
    rfl
  · simpa using ready
  · simp

/-! ### `ONESHOT` -/

open OneShot

theorem exec_oneshot_of_ready {old : Byte} {s : State} (ready : s.life = .ready) (held : s.mirror.read 0 = some old) :
    exec .oneshot s = .next ((busWrite 0 [oneShotCr0 old] (stage 0 (oneShotCr0 old) (accept s))).orRaise false fun u =>
      (pull 0x0A 6 (expireDelay (startDelay u))).orRaise false (respond 0)) := by
  rw [exec, execOneshot, whenReady_ready _ ((accept_life s).trans ready), accept_mirror, Params.addrCr0, held,
    withValue_some]
  rfl

/-- Settles O28: the push fails, so neither the wait nor the closing read is reached. -/
theorem oneShotStopsAfterABrokenPush : Obligations.OneShotStopsAfterABrokenPush := by
  intro old rs rest s ready held length fails
  have runs : exec .oneshot s =
      .next (afterFailedWrite false 0 [oneShotCr0 old] rs rest s.draws (stage 0 (oneShotCr0 old) (accept s))) := by
    have fails' : HeardThenFails (stage 0 (oneShotCr0 old) (accept s)) rs rest := fails
    rw [exec_oneshot_of_ready ready held, busWrite_fails 0 [oneShotCr0 old] fails' length, orRaise_failed]
    rfl
  have mirror : (afterFailedWrite false 0 [oneShotCr0 old] rs rest s.draws
      (stage 0 (oneShotCr0 old) (accept s))).mirror = s.mirror.write 0 (oneShotCr0 old) := by
    simp [afterFailedWrite]
  rw [← oneShotCr0_eq]
  refine ⟨_, runs, rfl, ?_, ?_, fun a above => ?_, afterFailedWrite_hist, afterFailedWrite_wire, rfl, rfl, ?_, ?_, ?_⟩
  · rw [afterFailedWrite, raise_resp, info_wr_zero (by omega)]
    rfl
  · rw [mirror, Memory.read_write_same]
  · rw [mirror, Memory.read_write_other _ _ (by omega)]
  · simp [afterFailedWrite]
  · simpa [afterFailedWrite] using ready
  · simp [afterFailedWrite]

/-- Settles O29: the push has completed and the wait is over when the closing read fails. -/
theorem oneShotReportsABrokenRead : Obligations.OneShotReportsABrokenRead := by
  intro old w rs rest s ready held hw length fails
  have heard : Heard s w (rs.map .reply ++ .fail :: rest) := heardThenFails_append.mp fails
  have runs := exec_oneshot_of_push ready held hw heard
  have fails' : HeardThenFails (afterTrigger (oneShotCr0 old) (rs.map .reply ++ .fail :: rest) s) rs rest := rfl
  rw [pull_fails _ _ fails' length, orRaise_failed] at runs
  have pushed : (afterTrigger (oneShotCr0 old) (rs.map .reply ++ .fail :: rest) s).mirror =
      s.mirror.write 0 (oneShotCr0 old) := rfl
  rw [← oneShotCr0_eq]
  refine ⟨_, runs, rfl, ?_, ?_, fun a above outside => ?_, fun a above below => afterFailedPull_read_isSome above below,
    ?_, rfl, rfl, ?_, ?_, ?_⟩
  · rw [raise_resp, info_rd_data (by omega)]
    rfl
  · exact (afterFailedPull_read_outside (by omega)).trans (by rw [pushed, Memory.read_write_same])
  · exact (afterFailedPull_read_outside outside).trans (by rw [pushed, Memory.read_write_other _ _ (by omega)])
  · exact afterFailedPull_hist.trans (by simp [afterTrigger])
  · simp [afterTrigger]
  · simpa [afterTrigger] using ready
  · simp

/-- A read into the mirror that ends a command ends alike from two states that differ only in the wire, the timer and
what the end overwrites. -/
theorem pull_orRaise_respond_alike (a n : Nat) (v : State) (wire : List WireEvent) (delay : Nat) (err : BitVec 4)
    (resp : Option Response) (busy : Bool) :
    ∃ t t' read, (pull a n v).orRaise false (respond 0) = t ∧
      (pull a n { v with wire := wire, delay := delay, err := err, resp := resp, busy := busy }).orRaise false
        (respond 0) = t' ∧
      t.wire = v.wire ++ read ∧ t'.wire = wire ++ read ∧ t'.delay = delay ∧
      { t' with wire := t.wire, delay := t.delay } = t := by
  obtain ⟨A, D, ⟨x, bytes, -, done⟩ | ⟨rs, -, failed⟩⟩ := pull_cases a n v.answers v.draws
  · rw [done v rfl rfl, done { v with wire := wire, delay := delay, err := err, resp := resp, busy := busy } rfl rfl]
    exact ⟨_, _, wireOfRead a n (x :: bytes), rfl, rfl, rfl, rfl, rfl, rfl⟩
  · rw [failed v rfl rfl,
      failed { v with wire := wire, delay := delay, err := err, resp := resp, busy := busy } rfl rfl]
    refine ⟨_, _, .select :: List.zipWith .duplex ((readFrame a n).take rs.length) rs ++ [.broken, .deselect], rfl, rfl,
      ?_, ?_, ?_, ?_⟩
    · simp [brokenRead_wire]
    · simp [brokenRead_wire]
    · simp
    · cases rs <;> rfl

theorem exec_mst_of_ready {addr : BitVec 4} {data : Byte} {s : State} (ready : s.life = .ready) :
    exec (.mst addr data) s = .next (respond 0 (stage addr.toNat data (accept s))) := by
  rw [exec, execMst, whenReady_ready _ ((accept_life s).trans ready)]

/-- Settles O27: the staging and the push are those of `MST` and `WRR`, and the closing read is that of `RDD`. -/
theorem oneShotIsStagePushRefresh : Obligations.OneShotIsStagePushRefresh := by
  intro old s s1 s2 s3 ready held staged pushed ok refreshed
  rw [← oneShotCr0_eq] at staged
  obtain rfl := Host.Outcome.next.inj ((exec_mst_of_ready ready).symm.trans staged)
  have payload : (s.mirror.write 0 (oneShotCr0 old)).readRange 0 1 = some [oneShotCr0 old] := by
    simp [Memory.readRange, Memory.read_write_same]
  have push : s2 = (busWrite 0 [oneShotCr0 old] (accept (respond 0 (stage 0 (oneShotCr0 old) (accept s))))).orRaise
      false (respond 0) :=
    Host.Outcome.next.inj (pushed.symm.trans (exec_wrr_of_ready (start := 0) (count := 1) ready (by decide) payload))
  obtain ⟨A, D, done | ⟨rs, -, failed⟩⟩ := busWrite_cases 0 [oneShotCr0 old] s.answers s.draws
  · rw [done (accept (respond 0 (stage 0 (oneShotCr0 old) (accept s)))) rfl rfl, orRaise_done] at push
    subst push
    have refresh := Host.Outcome.next.inj
      (refreshed.symm.trans ((Transfers.exec_rdd_eq_exec_rdr _).trans (Transfers.exec_rdr_of_ready ready (by decide))))
    have runs := exec_oneshot_of_ready ready held
    rw [done (stage 0 (oneShotCr0 old) (accept s)) rfl rfl, orRaise_done] at runs
    let pushed := afterWrite 0 [oneShotCr0 old] A D (stage 0 (oneShotCr0 old) (accept s))
    obtain ⟨t, t', read, rdd, closing, wire, wire', timer, same⟩ := pull_orRaise_respond_alike 0x0A 6
      (accept (respond 0 pushed)) (pushed.wire ++ [.wait Config.oneShotDelay]) 0 s.err s.resp true
    obtain rfl : s3 = t := refresh.trans rdd
    refine ⟨t', read, runs.trans (congrArg _ closing), wire, ?_, timer, same⟩
    rw [wire', List.append_assoc]
    rfl
  · rw [failed (accept (respond 0 (stage 0 (oneShotCr0 old) (accept s)))) rfl rfl, orRaise_failed] at push
    rw [push] at ok
    exact absurd ok (Decoders.raise_err_ne_zero _ _ _)

/-! ### `INIT` -/

open Construction

/-- The push of `INIT` fails (R157, R159). -/
theorem initPush_of_failed_push {c0 c1 : Byte} {rs : List Byte} {rest : List Answer} {s : State}
    (fails : HeardThenFails s rs rest) (length : rs.length ≤ 3) :
    initPush c0 c1 s = afterFailedWrite true 0 [c0, c1, 0x00#8] rs rest s.draws (stage 2 0x00#8 s) := by
  have fails' : HeardThenFails (stage 2 0x00#8 s) rs rest := fails
  rw [initPush, Params.addrCr0, Params.addrMask, busWrite_fails 0 [c0, c1, 0x00#8] fails' length, orRaise_failed]
  rfl

/-- The read-back of `INIT` fails after the push (R158, R159). -/
theorem initPush_of_failed_readBack {c0 c1 : Byte} {w rs : List Byte} {rest : List Answer} {s : State}
    (fails : HeardThenFails s (w ++ rs) rest) (hw : w.length = 4) (length : rs.length ≤ 3) :
    initPush c0 c1 s = afterFailedPull true 0 3 rs rest s.draws
      (afterWrite 0 [c0, c1, 0x00#8] (rs.map .reply ++ .fail :: rest) s.draws (stage 2 0x00#8 s)) := by
  have pushed : Heard (stage 2 0x00#8 s) w (rs.map .reply ++ .fail :: rest) := heardThenFails_append.mp fails
  have fails' : HeardThenFails (afterWrite 0 [c0, c1, 0x00#8] (rs.map .reply ++ .fail :: rest) s.draws
      (stage 2 0x00#8 s)) rs rest := rfl
  rw [initPush, Params.addrCr0, Params.addrMask, busWrite_heard 0 [c0, c1, 0x00#8] pushed hw, orRaise_done]
  exact congrArg (fun outcome => outcome.orRaise true initComplete) (pull_fails 0 3 fails' length)

/-- Settles O25: each of the three transactions fails in its turn, after those before it have completed. -/
theorem initFailsOnABrokenTransaction : Obligations.InitFailsOnABrokenTransaction := by
  refine ⟨fun tsel cr0v cr1v cr0 cr1 rs rest s length fails => ?_,
    fun tsel cr0v cr1v cr0 cr1 x first rs w rest code s hcode hfirst hw => ?_⟩
  · have fails' : HeardThenFails (initConfigure (initRelease (accept s))) rs rest := fails
    have runs : exec (.init tsel cr0v cr1v cr0 cr1) s =
        .next (afterFailedPull true 0 16 rs rest s.draws (initConfigure (initRelease (accept s)))) := by
      rw [exec, execInit, Params.nreg, pull_fails 0 16 fails' length, orRaise_failed]
      rfl
    refine ⟨_, runs, rfl, ?_, rfl, rfl, rfl, afterFailedPull_hist⟩
    rw [afterFailedPull, raise_resp, info_rd_zero length]
    rfl
  obtain ⟨ty, recognized, rfl⟩ := ofSelector_of_code hcode
  refine ⟨fun length fails => ?_, fun length fails => ?_⟩
  · have heard : Heard s (x :: first) (rs.map .reply ++ .fail :: rest) := heardThenFails_append.mp fails
    have runs :=
      exec_init_of_fullRead (tsel := tsel) (cr0v := cr0v) (cr1v := cr1v) (cr0 := cr0) (cr1 := cr1) heard hfirst
    rw [initType_recognized _ _ _ recognized] at runs
    refine ⟨_, runs.trans (congrArg _ (initPush_of_failed_push (rs := rs) (rest := rest) rfl length)),
      rfl, ?_, rfl, rfl, rfl, ?_⟩
    · rw [afterFailedWrite, raise_resp, info_wr_zero (by omega)]
      rfl
    · rw [afterFailedWrite_hist]
      simp only [stage_hist, afterFullRead, afterRead_hist, List.append_assoc]
      rfl
  · rw [List.append_assoc] at fails
    have heard : Heard s (x :: first) ((w ++ rs).map .reply ++ .fail :: rest) := heardThenFails_append.mp fails
    have runs :=
      exec_init_of_fullRead (tsel := tsel) (cr0v := cr0v) (cr1v := cr1v) (cr0 := cr0) (cr1 := cr1) heard hfirst
    rw [initType_recognized _ _ _ recognized] at runs
    refine ⟨_, runs.trans (congrArg _ (initPush_of_failed_readBack (rs := rs) (rest := rest) rfl hw length)),
      rfl, ?_, rfl, rfl, rfl, ?_⟩
    · rw [afterFailedPull, raise_resp, info_rd_zero (by omega)]
      rfl
    · rw [afterFailedPull_hist, ← mergeCr1_eq]
      simp only [afterWrite_hist, stage_hist, afterFullRead, afterRead_hist, List.append_assoc]
      rfl

end Sys2Proof.KnownAnswers

/-! PROOFS. The decoder commands again: the words they answer, what they read, and the numbers the words stand for
(spec/43_decoder.md R180 to R192; spec/70_reset_and_hazards.md R231; spec/41_init_config.md R155). -/

namespace Sys2Proof.Words

open Machine Decoders

/-! ### The answers -/

/-- Settles O32: the lifecycle check passes and the decoder reads its four bytes. -/
theorem tempReturnsTheThermocoupleWord : Obligations.TempReturnsTheThermocoupleWord :=
  fun _ _ _ _ _ ready held0 held1 held2 held3 => exec_temp_false ready held0 held1 held2 held3

/-- Settles O33: the lifecycle check passes and the decoder reads its two bytes. -/
theorem cjtReturnsTheColdJunctionWord : Obligations.CjtReturnsTheColdJunctionWord :=
  fun _ _ _ ready held0 held1 => exec_cjt_false ready held0 held1

/-- Settles O34: the lifecycle check passes and the decoder reads the status byte. -/
theorem fltReturnsTheStatusByte : Obligations.FltReturnsTheStatusByte :=
  fun _ _ ready held => exec_flt_false ready held

/-- A refreshed decode answers from the mirror that its read leaves (R193). -/
theorem decodeWith_true_heard {decoder : Memory → Option Word} {x : Byte} {data : List Byte} {rest : List Answer}
    {s : State} {w : Word} (ready : s.life = .ready) (heard : Heard s (x :: data) rest) (length : data.length = 6)
    (decodes : decoder (s.mirror.writeRange 0x0A data) = some w) :
    decodeWith decoder true s = .next (respond w
      { afterRead 0x0A 6 x data rest s.draws (accept s) with mirror := s.mirror.writeRange 0x0A data }) := by
  have heard' : Heard (accept s) (x :: data) rest := heard
  rw [decodeWith_true_of_ready decoder ready]
  change Tx.orRaiseThen (pull 0x0A 6 (accept s)) _ = _
  rw [pull_heard 0x0A 6 heard' length, orRaiseThen_done, accept_mirror, decodes, withValue_some]
  rfl

/-- Settles O36: the three commands share the read; each decodes the mirror it leaves. -/
theorem refreshedDecodersAnswerFromOneTransaction : Obligations.RefreshedDecodersAnswerFromOneTransaction := by
  intro x b0 b1 b2 b3 b4 b5 rest s ready heard
  have stored (a : Nat) : (s.mirror.writeRange 0x0A [b0, b1, b2, b3, b4, b5]).read a =
      if 0x0A ≤ a ∧ a < 0x10 then [b0, b1, b2, b3, b4, b5][a - 0x0A]? else s.mirror.read a :=
    Memory.read_writeRange _ _ _ _
  have lt32 : (s.mirror.writeRange 0x0A [b0, b1, b2, b3, b4, b5]).lt32 = some (b2 ++ b3 ++ b4 ++ b5) := by
    simp only [Memory.lt32, stored, Params.addrLtcbh, Params.addrLtcbm, Params.addrLtcbl, Params.addrSr]
    rfl
  have cjt : (s.mirror.writeRange 0x0A [b0, b1, b2, b3, b4, b5]).cjt = some ((b0 ++ b1).signExtend 32) := by
    simp only [Memory.cjt, stored, Params.addrCjth, Params.addrCjtl]
    rfl
  have flt : (s.mirror.writeRange 0x0A [b0, b1, b2, b3, b4, b5]).flt = some (0#24 ++ b5) := by
    rw [← zextByte_eq]
    simp [Memory.flt, stored, Params.addrSr]
  refine ⟨respond 0 { afterRead 0x0A 6 x [b0, b1, b2, b3, b4, b5] rest s.draws (accept s) with
    mirror := s.mirror.writeRange 0x0A [b0, b1, b2, b3, b4, b5] },
    rfl, rfl, rfl, rfl, rfl, ready, rfl, rfl, rfl, ?_, ?_, ?_⟩
  exacts [decodeWith_true_heard ready heard rfl lt32,
    decodeWith_true_heard ready heard rfl cjt, decodeWith_true_heard ready heard rfl flt]

/-- Settles O12: past the lifecycle check each of these commands uses the value it lacks. -/
theorem byteWithoutValueFaults : Obligations.ByteWithoutValueFaults := by
  intro s ready
  have decode (decoder : Memory → Option Word) (lacks : decoder s.mirror = none) :
      decodeWith decoder false s = .fault .mirrorByteWithoutValue := by
    rw [decodeWith_false_of_ready decoder ready, lacks, withValue_none]
  refine ⟨fun addr lacks => ?_, fun start count fits lacks => ?_, fun lacks => ?_, decode _, decode _, decode _⟩
  · rw [exec, execMld, whenReady_ready (s := accept s) _ ready, accept_mirror, lacks, withValue_none]
  · rw [exec, execWrr, whenReady_ready (s := accept s) _ ready, whenInRange_in _ _ fits, accept_mirror, lacks,
      withValue_none]
  · rw [exec, execOneshot, whenReady_ready (s := accept s) _ ready, accept_mirror, Params.addrCr0, lacks,
      withValue_none]

/-! ### What the decoders read -/

/-- The response of a decode without the refresh is a function of the decoded value and the lifecycle (R186). -/
theorem decodeWith_false_resp_of_decoder {decoder : Memory → Option Word} {s s' t : State}
    (decodes : decoder s'.mirror = decoder s.mirror) (life : s'.life = s.life)
    (h : decodeWith decoder false s = .next t) : ∃ t', decodeWith decoder false s' = .next t' ∧ t'.resp = t.resp := by
  obtain ⟨notReady, rfl⟩ | ⟨ready, w, held, rfl⟩ := decodeWith_false_cases h
  · exact ⟨_, decodeWith_false_of_not_ready decoder (life ▸ notReady), rfl⟩
  · exact ⟨_, decodeWith_false_of_held (life.trans ready) (decodes.trans held), rfl⟩

/-- Settles O37: the decoded value is a function of the decoder's own bytes. -/
theorem decodersReadOnlyTheirOwnBytes : Obligations.DecodersReadOnlyTheirOwnBytes := by
  intro s s' t life
  refine ⟨fun same h => decodeWith_false_resp_of_decoder ?_ life h,
    fun same h => decodeWith_false_resp_of_decoder ?_ life h, fun same h => decodeWith_false_resp_of_decoder ?_ life h⟩
  · simp only [Memory.lt32, Params.addrLtcbh, Params.addrLtcbm, Params.addrLtcbl, Params.addrSr,
      same 0x0C (by decide) (by decide), same 0x0D (by decide) (by decide), same 0x0E (by decide) (by decide),
      same 0x0F (by decide) (by decide)]
  · simp only [Memory.cjt, Params.addrCjth, Params.addrCjtl, same 0x0A (by decide) (by decide),
      same 0x0B (by decide) (by decide)]
  · rw [Memory.flt, Memory.flt, Params.addrSr, same]

/-! ### The numbers -/

/-- Settles O40: both values are the signed word divided by a constant. -/
theorem decodersAreMonotonic : Obligations.DecodersAreMonotonic := by
  refine ⟨fun v w less => ?_, fun h l h' l' less => ?_⟩
  · have : (v.toInt : ℚ) < w.toInt := by exact_mod_cast less
    rw [tempFixed_value, tempFixed_value]
    linarith
  · have : ((h ++ l : BitVec 16).toInt : ℚ) < (h' ++ l' : BitVec 16).toInt := by exact_mod_cast less
    rw [cjFixed_cjtResult_value, cjFixed_cjtResult_value]
    linarith

/-- A signed 32-bit word is its own significand (R187). -/
theorem exactWith_of_word (w : Word) (k : Nat) : Fixed.exactWith 53 { m := w.toInt, k := k } := by
  refine ⟨w.toInt, 0, by simp, ?_⟩
  have low := BitVec.le_toInt w
  have high := BitVec.toInt_lt (x := w)
  omega

/-- Settles O41: a word has 32 bits, and the largest one is odd and has 31. -/
theorem temperaturesAreExactInBinary64 : Obligations.TemperaturesAreExactInBinary64 := by
  refine ⟨fun w => exactWith_of_word w _, fun h l => exactWith_of_word _ _, ?_⟩
  rintro ⟨n, e, exact, small⟩
  have largest : (2147483647 : Int) = n * 2 ^ e := exact
  cases e with
  | zero => omega
  | succ e =>
    rw [pow_succ, ← mul_assoc] at largest
    omega

/-- The signed value of a word: that of its high part, shifted up, and the low part. -/
theorem toInt_eq_high_add_low {m n : Nat} (w : BitVec (m + n)) (signed : m ≠ 0) :
    w.toInt = 2 ^ n * (w.extractLsb' n m).toInt + (w.extractLsb' 0 n).toNat := by
  conv_lhs => rw [← BitVec.extractLsb'_append_extractLsb' (x := w)]
  rw [BitVec.toInt_append, if_neg (by simpa using signed)]

theorem lt19_toInt (w : Word) : w.toInt = 8192 * (lt19 w).toInt + (w.extractLsb' 0 13).toNat :=
  toInt_eq_high_add_low (m := 19) (n := 13) w (by decide)

theorem cj14_toInt (c : BitVec 16) : c.toInt = 4 * (cj14 c).toInt + (c.extractLsb' 0 2).toNat :=
  toInt_eq_high_add_low (m := 14) (n := 2) c (by decide)

/-- Settles O42: the device's field is the word without its low bits, which the value exceeds it by. -/
theorem deviceFieldsLieInsideTheWords : Obligations.DeviceFieldsLieInsideTheWords := by
  refine ⟨fun w => ⟨?_, ?_⟩, fun h l => ?_⟩
  · have low := (w.extractLsb' 0 13).isLt
    have parts := lt19_toInt w
    change (lt19 w).toInt = _
    omega
  · have parts : (w.toInt : ℚ) = 8192 * (lt19 w).toInt + (w.extractLsb' 0 13).toNat := by exact_mod_cast lt19_toInt w
    rw [tempFixed_value, lt19Fixed, Fixed.value, parts]
    ring
  · have parts : ((h ++ l : BitVec 16).toInt : ℚ) =
        4 * (cj14 (h ++ l)).toInt + ((h ++ l : BitVec 16).extractLsb' 0 2).toNat := by
      exact_mod_cast cj14_toInt (h ++ l)
    rw [cjFixed_cjtResult_value, cj14Fixed, Fixed.value, parts]
    ring

/-! ### The CR1 merge -/

/-- Settles O21: the selectors are ten, and the merge is a matter of the eight bits of one byte. -/
theorem cr1MergeKeepsBothNibbles : Obligations.Cr1MergeKeepsBothNibbles := by
  have code (avg : Byte) (ty : Thermocouple) : cr1Type (mergeCr1 avg ty.code) = ty.code := by
    revert avg
    cases ty <;> decide
  have average (avg : Byte) (ty : Thermocouple) : cr1Avg (mergeCr1 avg ty.code) = cr1Avg avg := by
    revert avg
    cases ty <;> decide
  refine ⟨by decide, fun avg ty => ⟨code avg ty, average avg ty⟩, fun avg ty u => ?_, fun avg avg' ty => ?_, rfl⟩
  · rw [average, average]
  · rw [code, code]

end Sys2Proof.Words

/-! PROOFS. The fault description (spec/43_decoder.md R190): the names of the active faults with the delimiter between
them, and why the description tells any two status bytes apart. -/

namespace Sys2Proof.Description

open Machine Decoders

/-! ### The table of faults -/

theorem bits_of_faults : SensorFault.all.map SensorFault.bit = List.range 8 := by decide

theorem bits_of_faults_ascend : SensorFault.all.Pairwise fun f g => f.bit < g.bit := by decide

theorem exists_fault_of_bit {b : Nat} (lt : b < 8) : ∃ f : SensorFault, f.bit = b := by
  have mem : b ∈ SensorFault.all.map SensorFault.bit := bits_of_faults ▸ List.mem_range.2 lt
  obtain ⟨f, -, rfl⟩ := List.mem_map.1 mem
  exact ⟨f, rfl⟩

theorem name_injective : Function.Injective SensorFault.name := by
  intro f g same
  cases f <;> cases g <;> simp_all [SensorFault.name]

/-! ### The active faults -/

theorem activeFaults_bits (sr : Byte) :
    (activeFaults sr).map SensorFault.bit = (List.range 8).filter fun b => sr.getLsbD b := by
  rw [← bits_of_faults, List.filter_map]
  rfl

theorem activeFaults_names (sr : Byte) :
    (activeFaults sr).map SensorFault.name =
      ((["open", "ovuv", "tclow", "tchigh", "cjlow", "cjhigh", "tcrange", "cjrange"].zipIdx).filter
        fun p => sr.getLsbD p.2).map Prod.fst := by
  have table : ["open", "ovuv", "tclow", "tchigh", "cjlow", "cjhigh", "tcrange", "cjrange"].zipIdx =
      SensorFault.all.map fun f => (f.name, f.bit) := rfl
  rw [table, List.filter_map, List.map_map]
  rfl

/-- The eight flags are the whole status byte. -/
theorem activeFaults_injective : Function.Injective activeFaults := by
  intro sr sr' same
  refine BitVec.eq_of_getLsbD_eq fun b lt => ?_
  obtain ⟨f, rfl⟩ := exists_fault_of_bit lt
  rw [Bool.eq_iff_iff, ← mem_activeFaults_iff, ← mem_activeFaults_iff, same]

/-! ### Joined names -/

theorem joinNames_eq_intercalate (d : String) (names : List String) : joinNames d names = d.intercalate names := by
  induction names with
  | nil => rw [joinNames, String.intercalate_nil]
  | cons x rest ih =>
    cases rest with
    | nil => rw [joinNames, String.intercalate_singleton]
    | cons y rest => rw [joinNames, ih, String.intercalate_cons_cons]

/-- A name that the delimiter can be told from: it is not empty and has only letters. -/
def IsWord (x : String) : Prop := x ≠ "" ∧ ∀ c ∈ x.toList, c.isAlpha = true

theorem isWord_name (f : SensorFault) : IsWord f.name := by
  cases f <;> exact ⟨by decide, by simp [SensorFault.name, Char.isAlpha, Char.isUpper, Char.isLower]⟩

/-- What follows the first name: nothing, or the delimiter and the other names. -/
def joinTail (d : String) : List String → String
  | [] => ""
  | y :: rest => d ++ joinNames d (y :: rest)

theorem joinNames_cons (d x : String) (rest : List String) : joinNames d (x :: rest) = x ++ joinTail d rest := by
  cases rest with
  | nil => rw [joinNames, joinTail, String.append_empty]
  | cons y rest => rw [joinNames, joinTail, String.append_assoc]

theorem takeWhile_joinTail {d : String} (ok : DelimiterOk d) (rest : List String) :
    (joinTail d rest).toList.takeWhile Char.isAlpha = [] := by
  cases rest with
  | nil => rfl
  | cons y rest =>
    obtain ⟨nonempty, letterless⟩ := ok
    obtain ⟨c, cs, head⟩ := List.exists_cons_of_ne_nil (mt String.toList_eq_nil_iff.1 nonempty)
    have nonletter : c.isAlpha = false := letterless c (head ▸ List.mem_cons_self)
    rw [joinTail, String.toList_append, head, List.cons_append, List.takeWhile_cons, nonletter]
    rfl

/-- The first name of a description is its letters up to the first character that is none. -/
theorem takeWhile_joinNames {d x : String} (ok : DelimiterOk d) (word : IsWord x) (rest : List String) :
    (joinNames d (x :: rest)).toList.takeWhile Char.isAlpha = x.toList := by
  rw [joinNames_cons, String.toList_append, List.takeWhile_append_of_pos word.2, takeWhile_joinTail ok,
    List.append_nil]

theorem joinNames_ne_empty {d x : String} (word : IsWord x) (rest : List String) : joinNames d (x :: rest) ≠ "" := by
  rw [joinNames_cons]
  exact fun empty => word.1 (String.append_eq_empty_iff.1 empty).1

/-- Only an empty rest leaves nothing after the first name, the delimiter not being empty. -/
theorem joinNames_eq_of_joinTail_eq {d : String} (ok : DelimiterOk d) {xs ys : List String}
    (same : joinTail d xs = joinTail d ys) : joinNames d xs = joinNames d ys := by
  cases xs <;> cases ys <;> simp_all [joinTail, ok.1, String.append_right_inj]

/-- Words joined by a delimiter that has no letters can be taken apart again. -/
theorem joinNames_injective {d : String} (ok : DelimiterOk d) {xs ys : List String} (wordsX : ∀ x ∈ xs, IsWord x)
    (wordsY : ∀ y ∈ ys, IsWord y) (same : joinNames d xs = joinNames d ys) : xs = ys := by
  induction xs generalizing ys with
  | nil =>
    cases ys with
    | nil => rfl
    | cons y ys => exact absurd same.symm (joinNames_ne_empty (wordsY y List.mem_cons_self) ys)
  | cons x xs ih =>
    cases ys with
    | nil => exact absurd same (joinNames_ne_empty (wordsX x List.mem_cons_self) xs)
    | cons y ys =>
      obtain ⟨wordX, othersX⟩ := List.forall_mem_cons.1 wordsX
      obtain ⟨wordY, othersY⟩ := List.forall_mem_cons.1 wordsY
      have first : x = y := String.toList_inj.1 <| by
        rw [← takeWhile_joinNames ok wordX xs, same, takeWhile_joinNames ok wordY ys]
      subst first
      rw [joinNames_cons, joinNames_cons, String.append_right_inj] at same
      rw [ih othersX othersY (joinNames_eq_of_joinTail_eq ok same)]

theorem describe_injective {d : String} (ok : DelimiterOk d) : Function.Injective (describe d) := by
  have words (sr : Byte) : ∀ x ∈ (activeFaults sr).map SensorFault.name, IsWord x :=
    List.forall_mem_map.2 fun f _ => isWord_name f
  exact fun sr sr' same => activeFaults_injective <|
    name_injective.list_map (joinNames_injective ok (words sr) (words sr') same)

/-- Settles O44: the table lists the faults by bit, and a description is cut into its names at the characters that are
no letters. -/
theorem faultDescriptionTellsStatusBytesApart : Obligations.FaultDescriptionTellsStatusBytesApart := by
  refine ⟨fun d sr => ?_, fun d => rfl, fun d => ?_, fun sr => ?_, fun sr => ?_, fun sr f => ?_,
    fun d sr sr' ok same => describe_injective ok same⟩
  · rw [describe, joinNames_eq_intercalate, activeFaults_names]
  · rfl
  · exact List.pairwise_map.2 (bits_of_faults_ascend.filter _)
  · rw [← activeFaults_bits, List.length_map]
  · rw [List.mem_map_of_injective name_injective, mem_activeFaults_iff]

end Sys2Proof.Description
